-- ==== Sys2Proof/Word.lean ====
section
/-!
DEFINITION. Word.lean: the value types of the core (00_scope.md R6, R9). Every value of the machine is unsigned;
a u8 is a `Byte`, a u16 is a `Word`, a 12-bit address operand is an `Addr12`, and `Reg` is the index of one of V0 to VF.
-/

namespace Sys2Proof

/-- A u8 (R9): a register V0 to VF, a timer, a memory cell, an immediate `kk`. -/
abbrev Byte := BitVec 8

/-- A u16 (R9): `I`, `pc`, a stack entry, an instruction word. -/
abbrev Word := BitVec 16

/-- The 12-bit address operand `nnn` (R101). -/
abbrev Addr12 := BitVec 12

/-- The 4-bit operand `n` (R101), a row count. -/
abbrev Nibble := BitVec 4

/-- The number of one of the sixteen registers V0 to VF (R31). -/
abbrev Reg := Fin 16

/-- The number of one of the sixteen keys 0x0 to 0xF (R41). -/
abbrev Key := Fin 16

end Sys2Proof
end

