-- ==== Sys2Proof/Syntax.lean ====
section
/-!
DEFINITION. Syntax.lean: the instructions, one constructor per row of spec/opcode_table.json (30_encoding.md R105, R108):
the 35 instructions and the nine rows of unassigned words, whose meaning is the default no-op of R146.
-/

namespace Sys2Proof

/-- An instruction with its decoded operands. The ignored low nibble of 5xyN and 9xyN (R107) is no operand. -/
inductive Instr where
  /-- 00E0 -/
  | cls
  /-- 00EE -/
  | ret
  /-- 0nnn, neither 00E0 nor 00EE -/
  | sys (nnn : Addr12)
  /-- 1nnn -/
  | jp (nnn : Addr12)
  /-- 2nnn -/
  | call (nnn : Addr12)
  /-- 3xkk -/
  | seImm (x : Reg) (kk : Byte)
  /-- 4xkk -/
  | sneImm (x : Reg) (kk : Byte)
  /-- 5xyN, N ignored -/
  | seReg (x y : Reg)
  /-- 6xkk -/
  | ldImm (x : Reg) (kk : Byte)
  /-- 7xkk -/
  | addImm (x : Reg) (kk : Byte)
  /-- 8xy0 -/
  | ldReg (x y : Reg)
  /-- 8xy1 -/
  | orReg (x y : Reg)
  /-- 8xy2 -/
  | andReg (x y : Reg)
  /-- 8xy3 -/
  | xorReg (x y : Reg)
  /-- 8xy4 -/
  | addReg (x y : Reg)
  /-- 8xy5 -/
  | subReg (x y : Reg)
  /-- 8xy6 -/
  | shr (x y : Reg)
  /-- 8xy7 -/
  | subn (x y : Reg)
  /-- 8xyE -/
  | shl (x y : Reg)
  /-- 9xyN, N ignored -/
  | sneReg (x y : Reg)
  /-- Annn -/
  | ldI (nnn : Addr12)
  /-- Bnnn -/
  | jpV0 (nnn : Addr12)
  /-- Cxkk -/
  | rnd (x : Reg) (kk : Byte)
  /-- Dxyn -/
  | drw (x y : Reg) (n : Nibble)
  /-- Ex9E -/
  | skp (x : Reg)
  /-- ExA1 -/
  | sknp (x : Reg)
  /-- Fx07 -/
  | ldVxDT (x : Reg)
  /-- Fx0A -/
  | ldVxK (x : Reg)
  /-- Fx15 -/
  | ldDT (x : Reg)
  /-- Fx18 -/
  | ldST (x : Reg)
  /-- Fx1E -/
  | addI (x : Reg)
  /-- Fx29 -/
  | ldF (x : Reg)
  /-- Fx33 -/
  | ldB (x : Reg)
  /-- Fx55 -/
  | storeRegs (x : Reg)
  /-- Fx65 -/
  | loadRegs (x : Reg)
  /-- 8xy8, unassigned -/
  | nop8xy8 (x y : Reg)
  /-- 8xy9, unassigned -/
  | nop8xy9 (x y : Reg)
  /-- 8xyA, unassigned -/
  | nop8xyA (x y : Reg)
  /-- 8xyB, unassigned -/
  | nop8xyB (x y : Reg)
  /-- 8xyC, unassigned -/
  | nop8xyC (x y : Reg)
  /-- 8xyD, unassigned -/
  | nop8xyD (x y : Reg)
  /-- 8xyF, unassigned -/
  | nop8xyF (x y : Reg)
  /-- ExKK, KK neither 9E nor A1, unassigned -/
  | nopEx (x : Reg) (kk : Byte)
  /-- FxKK, KK none of the nine of R105, unassigned -/
  | nopFx (x : Reg) (kk : Byte)
deriving DecidableEq, Repr

end Sys2Proof
end

