-- ==== Sys2Proof/WellFormed.lean ====
section
/-!
DEFINITION. WellFormed.lean: which instruction terms stand for a word. Operand widths are in the types; what is left to
check is that a row that matches "any other" word does not take a word of a more specific row (30_encoding.md R105, R106, R108).
-/

namespace Sys2Proof

/-- The `kk` selectors that family E assigns (R105). -/
def assignedE : List Byte := [0x9E, 0xA1]

/-- The `kk` selectors that family F assigns (R105). -/
def assignedF : List Byte := [0x07, 0x0A, 0x15, 0x18, 0x1E, 0x29, 0x33, 0x55, 0x65]

/-- `SYS` is not 00E0 or 00EE (R106); an unassigned E or F word has no assigned selector (R108); every other term is a word. -/
def WellFormed : Instr → Bool
  | .sys nnn => nnn != 0x0E0#12 && nnn != 0x0EE#12
  | .nopEx _ kk => !assignedE.contains kk
  | .nopFx _ kk => !assignedF.contains kk
  | .cls | .ret | .jp _ | .call _ | .ldI _ | .jpV0 _ => true
  | .seImm _ _ | .sneImm _ _ | .ldImm _ _ | .addImm _ _ | .rnd _ _ => true
  | .seReg _ _ | .sneReg _ _ | .ldReg _ _ | .orReg _ _ | .andReg _ _ | .xorReg _ _ => true
  | .addReg _ _ | .subReg _ _ | .shr _ _ | .subn _ _ | .shl _ _ | .drw _ _ _ => true
  | .skp _ | .sknp _ | .ldVxDT _ | .ldVxK _ | .ldDT _ | .ldST _ => true
  | .addI _ | .ldF _ | .ldB _ | .storeRegs _ | .loadRegs _ => true
  | .nop8xy8 _ _ | .nop8xy9 _ _ | .nop8xyA _ _ | .nop8xyB _ _ | .nop8xyC _ _ | .nop8xyD _ _ | .nop8xyF _ _ => true

end Sys2Proof
end

