-- ==== Sys2Proof/Decode.lean ====
section
/-!
DEFINITION. Decode.lean: the decoder (30_encoding.md R100 to R108), total on words (R102) and on bytes, and after it the
encoder (the same tables, R103 and R112) and the opcode table as data.
-/

namespace Sys2Proof

/-! ## The fields of a word (R101) -/

/-- `family` = w[15:12]. -/
def fieldFamily (w : Word) : BitVec 4 := w.extractLsb' 12 4

/-- `x` = w[11:8], as a register number. -/
def fieldX (w : Word) : Reg := (w.extractLsb' 8 4).toFin

/-- `y` = w[7:4], as a register number. -/
def fieldY (w : Word) : Reg := (w.extractLsb' 4 4).toFin

/-- `n` = w[3:0]. -/
def fieldN (w : Word) : Nibble := w.extractLsb' 0 4

/-- `kk` = w[7:0]. -/
def fieldKK (w : Word) : Byte := w.extractLsb' 0 8

/-- `nnn` = w[11:0]. -/
def fieldNNN (w : Word) : Addr12 := w.extractLsb' 0 12

/-! ## Dispatch (R105) -/

/-- Family 0 matches on the whole word (R106). R106 also names 0x10EE as a SYS word, whose family by R101 is 1: DESIGN CHOICE,
it decodes by its family (assumption 20). -/
def decodeFamily0 (w : Word) : Instr :=
  if w = 0x00E0#16 then .cls
  else if w = 0x00EE#16 then .ret
  else .sys (fieldNNN w)

/-- Family 8 is selected by `n`; seven selectors are unassigned (R108). -/
def decodeFamily8 (w : Word) : Instr :=
  match (fieldN w).toNat with
  | 0x0 => .ldReg (fieldX w) (fieldY w)
  | 0x1 => .orReg (fieldX w) (fieldY w)
  | 0x2 => .andReg (fieldX w) (fieldY w)
  | 0x3 => .xorReg (fieldX w) (fieldY w)
  | 0x4 => .addReg (fieldX w) (fieldY w)
  | 0x5 => .subReg (fieldX w) (fieldY w)
  | 0x6 => .shr (fieldX w) (fieldY w)
  | 0x7 => .subn (fieldX w) (fieldY w)
  | 0x8 => .nop8xy8 (fieldX w) (fieldY w)
  | 0x9 => .nop8xy9 (fieldX w) (fieldY w)
  | 0xA => .nop8xyA (fieldX w) (fieldY w)
  | 0xB => .nop8xyB (fieldX w) (fieldY w)
  | 0xC => .nop8xyC (fieldX w) (fieldY w)
  | 0xD => .nop8xyD (fieldX w) (fieldY w)
  | 0xE => .shl (fieldX w) (fieldY w)
  | _ => .nop8xyF (fieldX w) (fieldY w)

/-- Family E is selected by `kk`. -/
def decodeFamilyE (w : Word) : Instr :=
  match (fieldKK w).toNat with
  | 0x9E => .skp (fieldX w)
  | 0xA1 => .sknp (fieldX w)
  | _ => .nopEx (fieldX w) (fieldKK w)

/-- Family F is selected by `kk`. -/
def decodeFamilyF (w : Word) : Instr :=
  match (fieldKK w).toNat with
  | 0x07 => .ldVxDT (fieldX w)
  | 0x0A => .ldVxK (fieldX w)
  | 0x15 => .ldDT (fieldX w)
  | 0x18 => .ldST (fieldX w)
  | 0x1E => .addI (fieldX w)
  | 0x29 => .ldF (fieldX w)
  | 0x33 => .ldB (fieldX w)
  | 0x55 => .storeRegs (fieldX w)
  | 0x65 => .loadRegs (fieldX w)
  | _ => .nopFx (fieldX w) (fieldKK w)

/-- The decoder: a total function of the word (R102, R142), by family (R105). The last arm is family F, the only one left.
The word 0x10EE is of family 1, `JP 0x0EE` (R101, R105, R162), though R106 names it as a SYS word: DESIGN CHOICE (assumption 20). -/
def decodeWord (w : Word) : Instr :=
  match (fieldFamily w).toNat with
  | 0x0 => decodeFamily0 w
  | 0x1 => .jp (fieldNNN w)
  | 0x2 => .call (fieldNNN w)
  | 0x3 => .seImm (fieldX w) (fieldKK w)
  | 0x4 => .sneImm (fieldX w) (fieldKK w)
  | 0x5 => .seReg (fieldX w) (fieldY w)
  | 0x6 => .ldImm (fieldX w) (fieldKK w)
  | 0x7 => .addImm (fieldX w) (fieldKK w)
  | 0x8 => decodeFamily8 w
  | 0x9 => .sneReg (fieldX w) (fieldY w)
  | 0xA => .ldI (fieldNNN w)
  | 0xB => .jpV0 (fieldNNN w)
  | 0xC => .rnd (fieldX w) (fieldKK w)
  | 0xD => .drw (fieldX w) (fieldY w) (fieldN w)
  | 0xE => decodeFamilyE w
  | _ => decodeFamilyF w

/-- The word of two fetched bytes, the byte at the lower address first: big-endian (R70, R100). -/
def wordOfBytes (hi lo : Byte) : Word := hi ++ lo

/-- Why a byte sequence holds no instruction: no word is illegal (R102), so the one reason is that a byte is missing. -/
inductive DecodeError where
  | truncated
deriving DecidableEq, Repr

/-- Decoding of a byte sequence: the instruction of its first two bytes and the bytes after it (R109: every instruction is 2 bytes). -/
def decode : List Byte → Except DecodeError (Instr × List Byte)
  | hi :: lo :: rest => .ok (decodeWord (wordOfBytes hi lo), rest)
  | _ => .error .truncated

/-! ## The encoder (R103, R112) -/

/-- A register number as the four bits of a field. -/
def regBits (r : Reg) : BitVec 4 := BitVec.ofFin r

/-- Format `A`. -/
def formA (f : BitVec 4) (nnn : Addr12) : Word := f ++ nnn

/-- Format `XKK`, and `XK` with its selector as `kk`. -/
def formXKK (f : BitVec 4) (x : Reg) (kk : Byte) : Word := f ++ regBits x ++ kk

/-- Format `XYN`, and `XY` with its selector as `n`. -/
def formXYN (f : BitVec 4) (x y : Reg) (n : Nibble) : Word := f ++ regBits x ++ regBits y ++ n

/-- The word of an instruction. An ignored nibble (R107) is 0, as an assembler emits it (R112). -/
def encode : Instr → Word
  | .cls => 0x00E0#16
  | .ret => 0x00EE#16
  | .sys nnn => formA 0x0 nnn
  | .jp nnn => formA 0x1 nnn
  | .call nnn => formA 0x2 nnn
  | .seImm x kk => formXKK 0x3 x kk
  | .sneImm x kk => formXKK 0x4 x kk
  | .seReg x y => formXYN 0x5 x y 0x0
  | .ldImm x kk => formXKK 0x6 x kk
  | .addImm x kk => formXKK 0x7 x kk
  | .ldReg x y => formXYN 0x8 x y 0x0
  | .orReg x y => formXYN 0x8 x y 0x1
  | .andReg x y => formXYN 0x8 x y 0x2
  | .xorReg x y => formXYN 0x8 x y 0x3
  | .addReg x y => formXYN 0x8 x y 0x4
  | .subReg x y => formXYN 0x8 x y 0x5
  | .shr x y => formXYN 0x8 x y 0x6
  | .subn x y => formXYN 0x8 x y 0x7
  | .shl x y => formXYN 0x8 x y 0xE
  | .sneReg x y => formXYN 0x9 x y 0x0
  | .ldI nnn => formA 0xA nnn
  | .jpV0 nnn => formA 0xB nnn
  | .rnd x kk => formXKK 0xC x kk
  | .drw x y n => formXYN 0xD x y n
  | .skp x => formXKK 0xE x 0x9E
  | .sknp x => formXKK 0xE x 0xA1
  | .ldVxDT x => formXKK 0xF x 0x07
  | .ldVxK x => formXKK 0xF x 0x0A
  | .ldDT x => formXKK 0xF x 0x15
  | .ldST x => formXKK 0xF x 0x18
  | .addI x => formXKK 0xF x 0x1E
  | .ldF x => formXKK 0xF x 0x29
  | .ldB x => formXKK 0xF x 0x33
  | .storeRegs x => formXKK 0xF x 0x55
  | .loadRegs x => formXKK 0xF x 0x65
  | .nop8xy8 x y => formXYN 0x8 x y 0x8
  | .nop8xy9 x y => formXYN 0x8 x y 0x9
  | .nop8xyA x y => formXYN 0x8 x y 0xA
  | .nop8xyB x y => formXYN 0x8 x y 0xB
  | .nop8xyC x y => formXYN 0x8 x y 0xC
  | .nop8xyD x y => formXYN 0x8 x y 0xD
  | .nop8xyF x y => formXYN 0x8 x y 0xF
  | .nopEx x kk => formXKK 0xE x kk
  | .nopFx x kk => formXKK 0xF x kk

/-- The high byte of a word, stored at the lower address (R70). -/
def highByte (w : Word) : Byte := w.extractLsb' 8 8

/-- The low byte of a word. -/
def lowByte (w : Word) : Byte := w.extractLsb' 0 8

/-- The two bytes of an instruction, in memory order (R70). -/
def encodeBytes (i : Instr) : List Byte := [highByte (encode i), lowByte (encode i)]

/-- The host's question about a row of the opcode table: the word's bytes in memory order, through the byte decoder.
A row has 16 bits or fewer (the bits above `nbits` are 0); no row of this hardware is longer. -/
def decodeTableWord (nbits w : Nat) : Option Instr :=
  if nbits ≤ 16 then
    let word : Word := BitVec.ofNat 16 (w % 2 ^ nbits)
    match decode [highByte word, lowByte word] with
    | .ok (i, _) => some i
    | .error _ => none
  else none

/-! ## The opcode table as data -/

/-- A row of spec/opcode_table.json: a word belongs to it when its masked bits are `pattern`. -/
structure OpcodeRow where
  pattern : Word
  mask : Word
deriving DecidableEq, Repr

/-- The word has the row's fixed bits. -/
def OpcodeRow.fits (r : OpcodeRow) (w : Word) : Bool := w &&& r.mask == r.pattern

/-- The row of the table that a constructor stands for. -/
def rowOf : Instr → OpcodeRow
  | .cls => ⟨0x00E0, 0xFFFF⟩
  | .ret => ⟨0x00EE, 0xFFFF⟩
  | .sys _ => ⟨0x0000, 0xF000⟩
  | .jp _ => ⟨0x1000, 0xF000⟩
  | .call _ => ⟨0x2000, 0xF000⟩
  | .seImm _ _ => ⟨0x3000, 0xF000⟩
  | .sneImm _ _ => ⟨0x4000, 0xF000⟩
  | .seReg _ _ => ⟨0x5000, 0xF000⟩
  | .ldImm _ _ => ⟨0x6000, 0xF000⟩
  | .addImm _ _ => ⟨0x7000, 0xF000⟩
  | .ldReg _ _ => ⟨0x8000, 0xF00F⟩
  | .orReg _ _ => ⟨0x8001, 0xF00F⟩
  | .andReg _ _ => ⟨0x8002, 0xF00F⟩
  | .xorReg _ _ => ⟨0x8003, 0xF00F⟩
  | .addReg _ _ => ⟨0x8004, 0xF00F⟩
  | .subReg _ _ => ⟨0x8005, 0xF00F⟩
  | .shr _ _ => ⟨0x8006, 0xF00F⟩
  | .subn _ _ => ⟨0x8007, 0xF00F⟩
  | .shl _ _ => ⟨0x800E, 0xF00F⟩
  | .sneReg _ _ => ⟨0x9000, 0xF000⟩
  | .ldI _ => ⟨0xA000, 0xF000⟩
  | .jpV0 _ => ⟨0xB000, 0xF000⟩
  | .rnd _ _ => ⟨0xC000, 0xF000⟩
  | .drw _ _ _ => ⟨0xD000, 0xF000⟩
  | .skp _ => ⟨0xE09E, 0xF0FF⟩
  | .sknp _ => ⟨0xE0A1, 0xF0FF⟩
  | .ldVxDT _ => ⟨0xF007, 0xF0FF⟩
  | .ldVxK _ => ⟨0xF00A, 0xF0FF⟩
  | .ldDT _ => ⟨0xF015, 0xF0FF⟩
  | .ldST _ => ⟨0xF018, 0xF0FF⟩
  | .addI _ => ⟨0xF01E, 0xF0FF⟩
  | .ldF _ => ⟨0xF029, 0xF0FF⟩
  | .ldB _ => ⟨0xF033, 0xF0FF⟩
  | .storeRegs _ => ⟨0xF055, 0xF0FF⟩
  | .loadRegs _ => ⟨0xF065, 0xF0FF⟩
  | .nop8xy8 _ _ => ⟨0x8008, 0xF00F⟩
  | .nop8xy9 _ _ => ⟨0x8009, 0xF00F⟩
  | .nop8xyA _ _ => ⟨0x800A, 0xF00F⟩
  | .nop8xyB _ _ => ⟨0x800B, 0xF00F⟩
  | .nop8xyC _ _ => ⟨0x800C, 0xF00F⟩
  | .nop8xyD _ _ => ⟨0x800D, 0xF00F⟩
  | .nop8xyF _ _ => ⟨0x800F, 0xF00F⟩
  | .nopEx _ _ => ⟨0xE000, 0xF000⟩
  | .nopFx _ _ => ⟨0xF000, 0xF000⟩

/-- The 44 rows of the table, in its order. -/
def opcodeRows : List OpcodeRow :=
  [⟨0x00E0, 0xFFFF⟩, ⟨0x00EE, 0xFFFF⟩, ⟨0x0000, 0xF000⟩, ⟨0x1000, 0xF000⟩, ⟨0x2000, 0xF000⟩, ⟨0x3000, 0xF000⟩,
   ⟨0x4000, 0xF000⟩, ⟨0x5000, 0xF000⟩, ⟨0x6000, 0xF000⟩, ⟨0x7000, 0xF000⟩] ++
  [⟨0x8000, 0xF00F⟩, ⟨0x8001, 0xF00F⟩, ⟨0x8002, 0xF00F⟩, ⟨0x8003, 0xF00F⟩, ⟨0x8004, 0xF00F⟩, ⟨0x8005, 0xF00F⟩,
   ⟨0x8006, 0xF00F⟩, ⟨0x8007, 0xF00F⟩, ⟨0x800E, 0xF00F⟩, ⟨0x9000, 0xF000⟩, ⟨0xA000, 0xF000⟩, ⟨0xB000, 0xF000⟩,
   ⟨0xC000, 0xF000⟩, ⟨0xD000, 0xF000⟩] ++
  [⟨0xE09E, 0xF0FF⟩, ⟨0xE0A1, 0xF0FF⟩, ⟨0xF007, 0xF0FF⟩, ⟨0xF00A, 0xF0FF⟩, ⟨0xF015, 0xF0FF⟩, ⟨0xF018, 0xF0FF⟩,
   ⟨0xF01E, 0xF0FF⟩, ⟨0xF029, 0xF0FF⟩, ⟨0xF033, 0xF0FF⟩, ⟨0xF055, 0xF0FF⟩, ⟨0xF065, 0xF0FF⟩] ++
  [⟨0x8008, 0xF00F⟩, ⟨0x8009, 0xF00F⟩, ⟨0x800A, 0xF00F⟩, ⟨0x800B, 0xF00F⟩, ⟨0x800C, 0xF00F⟩, ⟨0x800D, 0xF00F⟩,
   ⟨0x800F, 0xF00F⟩, ⟨0xE000, 0xF000⟩, ⟨0xF000, 0xF000⟩]

end Sys2Proof
end

