-- ==== Sys2Proof/Config.lean ====
section
/-!
DEFINITION. Config.lean: what 00_scope.md R7 leaves to the implementation (the configuration record and its defaults),
and the free values of R13, which nothing constrains.
-/

namespace Sys2Proof

/-- The parameters of R7. They are fixed for a run: no instruction and no core step writes one. -/
structure Config where
  /-- `STACK_DEPTH` (R38): the bound on the call stack. -/
  stackDepth : Nat
  /-- `FONT_BASE` (R73): the address of glyph 0. -/
  fontBase : Addr12
  /-- `FONT` (R75): sixteen glyphs of five bytes. -/
  font : List Byte
  /-- `SHIFT_SOURCE_VY` (R198, R200): shift Vy instead of Vx. -/
  shiftSourceVy : Bool
  /-- `LOGIC_VF_RESET` (R193 to R195): OR, AND and XOR clear VF. -/
  logicVfReset : Bool
  /-- `SPRITE_WRAP` (R253): pixels past an edge wrap instead of being clipped. -/
  spriteWrap : Bool
  /-- `LOADSTORE_INCREMENT_I` (R224, R225): the bulk transfers add x + 1 to I. -/
  loadStoreIncrementI : Bool
  /-- `CPU_HZ` (R321): CPU ticks per second. -/
  cpuHz : Nat
deriving DecidableEq, Repr

/-- Glyphs 0 to 7 of the default font (R75). -/
def defaultFontLow : List Byte :=
  [0xF0, 0x90, 0x90, 0x90, 0xF0] ++ [0x20, 0x60, 0x20, 0x20, 0x70] ++ [0xF0, 0x10, 0xF0, 0x80, 0xF0] ++
  [0xF0, 0x10, 0xF0, 0x10, 0xF0] ++ [0x90, 0x90, 0xF0, 0x10, 0x10] ++ [0xF0, 0x80, 0xF0, 0x10, 0xF0] ++
  [0xF0, 0x80, 0xF0, 0x90, 0xF0] ++ [0xF0, 0x10, 0x20, 0x40, 0x40]

/-- Glyphs 8 to F of the default font (R75). -/
def defaultFontHigh : List Byte :=
  [0xF0, 0x90, 0xF0, 0x90, 0xF0] ++ [0xF0, 0x90, 0xF0, 0x10, 0xF0] ++ [0xF0, 0x90, 0xF0, 0x90, 0x90] ++
  [0xE0, 0x90, 0xE0, 0x90, 0xE0] ++ [0xF0, 0x80, 0x80, 0x80, 0xF0] ++ [0xE0, 0x90, 0x90, 0x90, 0xE0] ++
  [0xF0, 0x80, 0xF0, 0x80, 0xF0] ++ [0xF0, 0x80, 0xF0, 0x80, 0x80]

/-- The defaults of R7. `CPU_HZ` is OPEN there; 600 is DESIGN CHOICE (assumption 2), the rate the spec's own vectors use. -/
def Config.default : Config where
  stackDepth := 16
  fontBase := 0x050
  font := defaultFontLow ++ defaultFontHigh
  shiftSourceVy := false
  logicVfReset := true
  spriteWrap := false
  loadStoreIncrementI := false
  cpuHz := 600

/-- A configuration inside its domain: the checks of R303 and R353 (a depth and a rate of at least 1, eighty font bytes,
and a font that ends below 0x200). -/
def Config.ok (c : Config) : Bool :=
  decide (1 ≤ c.stackDepth) && decide (1 ≤ c.cpuHz) && decide (c.font.length = 80) && decide (c.fontBase.toNat + 79 ≤ 0x1FF)

/-- The free byte of `RND` (R13, R201), for the n-th draw that the host has not supplied. Nothing constrains it (assumption 4). -/
opaque Config.freeByte : Nat → Byte

/-- The free choice of `LD Vx, K` among several pressed keys (R13, R283), for the n-th such choice: the position in the
list of pressed keys is this number modulo the list's length. Nothing constrains it (assumption 5). -/
opaque Config.freeKey : Nat → Nat

end Sys2Proof
end

