-- ==== Sys2Proof/Machine/State.lean ====
section
/-!
DEFINITION. Machine/State.lean: the state of the core as plain data (10_state.md R30 to R47), the error log's records
(60_exceptions.md R300, R301), what the host can do and is handed (R340), and the state after reset.
-/

namespace Sys2Proof.Machine

/-- The byte memory of R30: the cells that differ from the reset contents (`resetByte`), by strictly rising address. -/
abbrev Memory := List Host.Cell

/-- The 64×32 grid of R40, row-major: row `y` (0 to 31) holds columns `x` (0 to 63). -/
abbrev Framebuffer := Vector (Vector Bool 64) 32

/-- A framebuffer with every pixel off. -/
def Framebuffer.allOff : Framebuffer := Vector.replicate 32 (Vector.replicate 64 false)

/-- The five kinds of R301. -/
inductive ErrorKind where
  | stackOverflow
  | stackUnderflow
  | memoryOutOfRange
  | keyOutOfRange
  | fetchOutOfRange
deriving DecidableEq, Repr

/-- A record of the error log (R300). -/
structure ErrorRecord where
  kind : ErrorKind
  pc : Word
  word : Option Word
  info : Option Word
deriving DecidableEq, Repr

/-- Why `load` or `reset` answers an error and changes nothing (R303, R351, R352). -/
inductive LoadError where
  /-- more than 3584 bytes (R351) -/
  | oversize
  /-- `reset` before any successful `load` (R352) -/
  | noRom
  /-- the configuration is outside its domain (R303, R353) -/
  | badConfig
deriving DecidableEq, Repr

/-- What `load` and `reset` return to the host. -/
inductive LoadReply where
  | success
  | error (e : LoadError)
deriving DecidableEq, Repr

/-- What the host does between two core steps (R340). `wait` is the model's own: the host does nothing here and the core takes
the next tick of the pass in progress. -/
inductive HostAction where
  /-- `load(rom)` (R350, R351) -/
  | load (rom : List Byte)
  /-- `reset()` (R352) -/
  | reset
  /-- `set_key(k, b)` (R341) -/
  | setKey (k : Key) (pressed : Bool)
  /-- `stop()` (R326) -/
  | stop
  /-- `pass(e)` (R322): a scheduler pass with `e` elapsed time units -/
  | pass (e : Nat)
  /-- a byte for the random source (R201, R340) -/
  | random (b : Byte)
  /-- no action before the next tick -/
  | wait
deriving DecidableEq, Repr

/-- What the core hands to the host: a frame (R332), or the answer of `load` or `reset`. -/
inductive HostOutput where
  | frame (fb : Framebuffer)
  | reply (r : LoadReply)
deriving DecidableEq, Repr

/-- The host's side, the model's own record: it is no state of the core. -/
structure HostSide where
  /-- what the host will do, next action first; empty for a host that only makes its regular `pass(60)` calls (assumption 6) -/
  script : List HostAction
  /-- what the host has been handed, oldest first -/
  out : List HostOutput
  /-- the bytes the host has put into the random source and no `RND` has drawn yet, oldest first -/
  rndIn : List Byte
  /-- how many `RND` have drawn a byte: the argument of the free byte (R13) -/
  rndCount : Nat
  /-- how often a key was chosen among several: the argument of the free choice (R13) -/
  keyCount : Nat
deriving DecidableEq, Repr

/-- The complete state: the record of R46, the configuration that R46 makes a constant argument (assumption 1), the pass
in progress (the local `e` of R322) and the host's side. -/
structure State where
  /-- R7: fixed for a run -/
  cfg : Config
  /-- R30 -/
  mem : Memory
  /-- R31: V0 to VF; VF is V[15] (R32) -/
  V : Vector Byte 16
  /-- R34 -/
  I : Word
  /-- R35 -/
  pc : Word
  /-- R38: the top is the last element -/
  S : List Word
  /-- R39: the delay timer -/
  DT : Byte
  /-- R39: the sound timer -/
  ST : Byte
  /-- R40 -/
  FB : Framebuffer
  /-- R41: true for pressed -/
  KEY : Vector Bool 16
  /-- R45(a): oldest first -/
  errors : List ErrorRecord
  /-- R45(b) -/
  cpuAcc : Nat
  /-- R45(b) -/
  tmrAcc : Nat
  /-- R45(c): the ROM of the last successful `load`; none before the first (R352, R354) -/
  rom : Option (List Byte)
  /-- R45(d) -/
  running : Bool
  /-- R322: the elapsed time of the pass in progress; none between passes -/
  pass : Option Nat
  /-- R340 -/
  host : HostSide
deriving DecidableEq, Repr

/-- Why the machine stops with a fault: never. Every failure this spec names is logged and the core goes on, or stays at
its `pc` and logs again (R143, R145, R302), so no step raises a fault, and the type has no constructor (safe). -/
inductive Fault where
deriving DecidableEq, Repr

/-- Why an instruction has no meaning in the model. -/
inductive Refusal where
  /-- raised by an arm of exec whose instruction has no meaning yet; no arm raises it now (safe) -/
  | notModelled (mnemonic : String)
deriving DecidableEq, Repr

/-- No script, nothing handed over, nothing drawn. -/
def HostSide.quiet : HostSide where
  script := []
  out := []
  rndIn := []
  rndCount := 0
  keyCount := 0

/-- The machine right after reset (R47), with the default configuration and the empty ROM that R350 accepts. `KEY` is
host-owned; all released is DESIGN CHOICE (assumption 3). -/
def State.reset : State where
  cfg := Config.default
  mem := []
  V := Vector.replicate 16 0
  I := 0
  pc := 0x200
  S := []
  DT := 0
  ST := 0
  FB := Framebuffer.allOff
  KEY := Vector.replicate 16 false
  errors := []
  cpuAcc := 0
  tmrAcc := 0
  rom := some []
  running := true
  pass := none
  host := HostSide.quiet

/-- The machine before the first successful `load` (R354): no stored ROM, and not running. -/
def State.powerOn : State := { State.reset with rom := none, running := false }

end Sys2Proof.Machine
end

