-- ==== Sys2Proof/Machine/Ops.lean ====
section
/-!
DEFINITION. Machine/Ops.lean: the named operations over memory, registers, stack, framebuffer and error log, and the one
shared completion of a failing instruction (40_cpu_cycle.md R145). No return from it exists (60_exceptions.md R306).
-/

namespace Sys2Proof.Machine

/-! ## Memory (20_memory.md) -/

/-- `MEM_SIZE` (R6): addresses 0x000 to 0xFFF exist. -/
def memSize : Nat := 0x1000

/-- `PROGRAM_START` (R6). -/
def programStart : Nat := 0x200

/-- `MAX_ROM` (R6). -/
def maxRom : Nat := memSize - programStart

/-- What an unlisted address reads as: the reset contents without a ROM, 0 except the font (R47, R353). -/
def resetByte (c : Config) (a : Nat) : Byte :=
  if c.fontBase.toNat ≤ a then c.font.getD (a - c.fontBase.toNat) 0 else 0

/-- `MemRead(a, 1)` (R11). -/
def memRead (c : Config) : Memory → Nat → Byte
  | [], a => resetByte c a
  | (b, v) :: rest, a => if a = b then v else memRead c rest a

/-- Puts a cell in front, unless it holds what an unlisted address reads as. -/
def memCons (c : Config) (a : Nat) (v : Byte) (m : Memory) : Memory :=
  if v = resetByte c a then m else (a, v) :: m

/-- `MemWrite(a, 1, v)` (R11), keeping the canonical form. -/
def memWrite (c : Config) : Memory → Nat → Byte → Memory
  | [], a, v => memCons c a v []
  | (b, w) :: rest, a, v =>
    if a < b then memCons c a v ((b, w) :: rest)
    else if a = b then memCons c a v rest
    else (b, w) :: memWrite c rest a v

/-- Writes bytes at rising addresses, one single-byte write each (R77). -/
def memWriteBytes (c : Config) : Memory → Nat → List Byte → Memory
  | m, _, [] => m
  | m, a, v :: vs => memWriteBytes c (memWrite c m a v) (a + 1) vs

/-- The canonical form above a bound: addresses strictly rising, at least `lo`, inside memory, and no cell equal to what
its address reads as unlisted. -/
def Memory.wfFrom (c : Config) (lo : Nat) : Memory → Bool
  | [] => true
  | (a, v) :: rest => decide (lo ≤ a) && decide (a < memSize) && (v != resetByte c a) && Memory.wfFrom c (a + 1) rest

/-- The canonical form of memory. -/
def Memory.wf (c : Config) (m : Memory) : Bool := Memory.wfFrom c 0 m

/-- One byte of the state's memory. -/
def State.readByte (s : State) (a : Nat) : Byte := memRead s.cfg s.mem a

/-- The `n` bytes from address `a` up (R77). -/
def State.readBytes (s : State) (a n : Nat) : List Byte := (List.range n).map fun k => s.readByte (a + k)

/-- Stores bytes from address `a` up (R77). -/
def State.writeBytes (s : State) (a : Nat) (vs : List Byte) : State := { s with mem := memWriteBytes s.cfg s.mem a vs }

/-! ## Registers -/

/-- `VF` (R32). -/
def regVF : Reg := 15

/-- `V[x] <- v` (R10, R31): every register is an ordinary cell, VF included (R32). -/
def State.setV (s : State) (x : Reg) (v : Byte) : State := { s with V := s.V.set x v }

/-- A result and then a flag: VF is written last (R32, R202). -/
def State.setVThenFlag (s : State) (x : Reg) (v flag : Byte) : State := (s.setV x v).setV regVF flag

/-- `V[0 .. ] <- vs`, in rising order (R225). -/
def loadRegsFrom : List Byte → Nat → Vector Byte 16 → Vector Byte 16
  | [], _, r => r
  | v :: vs, k, r => loadRegsFrom vs (k + 1) (if h : k < 16 then r.set k v else r)

/-- Replaces the whole register file (R225). -/
def State.setRegs (s : State) (r : Vector Byte 16) : State := { s with V := r }

/-- `I <- v` (R34). -/
def State.setI (s : State) (v : Word) : State := { s with I := v }

/-- `pc <- v`: a 16-bit register, so every write is truncated (R36). -/
def State.setPc (s : State) (v : Word) : State := { s with pc := v }

/-- The default successor, `pc + 2` (R35). -/
def State.advance (s : State) : State := s.setPc (s.pc + 2)

/-- A skip: `pc + 4` when taken, else `pc + 2` (R35, R164). -/
def State.skipIf (s : State) (taken : Bool) : State := s.setPc (if taken then s.pc + 4 else s.pc + 2)

/-- `DT <- v` (R39). -/
def State.setDT (s : State) (v : Byte) : State := { s with DT := v }

/-- `ST <- v` (R39). -/
def State.setST (s : State) (v : Byte) : State := { s with ST := v }

/-! ## Stack (R38) -/

/-- Replaces the stack. -/
def State.setS (s : State) (st : List Word) : State := { s with S := st }

/-! ## Errors (60_exceptions.md) -/

/-- The numeric code of an error kind (R301). -/
def ErrorKind.code : ErrorKind → Nat
  | .stackOverflow => 1
  | .stackUnderflow => 2
  | .memoryOutOfRange => 3
  | .keyOutOfRange => 4
  | .fetchOutOfRange => 5

/-- Appends a record to the error log (R300: oldest first). -/
def State.logError (s : State) (r : ErrorRecord) : State := { s with errors := s.errors ++ [r] }

/-- The completion of a tick whose handler raised (R12, R145): the record holds the kind, the failing `pc`, the word of the
instruction and the info; then `pc + 2`, and nothing else changes. There is no other trap entry (R305). -/
def raiseError (i : Instr) (k : ErrorKind) (info : Option Word) (s : State) : Host.Outcome State Fault Refusal :=
  .next ((s.logError { kind := k, pc := s.pc, word := some (encode i), info := info }).advance)

/-! ## Display buffer (44_display.md) -/

/-- `pixel_at(x, y)` (R255). -/
def pixelAt (fb : Framebuffer) (x : Fin 64) (y : Fin 32) : Bool := fb[y][x]

/-- `FB[x][y] <- not FB[x][y]`. -/
def togglePixel (fb : Framebuffer) (x : Fin 64) (y : Fin 32) : Framebuffer := fb.set y (fb[y].set x (!fb[y][x]))

/-- Replaces the framebuffer. -/
def State.setFB (s : State) (fb : Framebuffer) : State := { s with FB := fb }

/-- `clear()` (R251). -/
def State.clear (s : State) : State := s.setFB Framebuffer.allOff

/-- The cell of a sprite pixel: wrapped, or none when it is clipped (R253). -/
def placePixel (wrap : Bool) (px py : Nat) : Option (Fin 64 × Fin 32) :=
  if wrap then some (Fin.ofNat 64 px, Fin.ofNat 32 py)
  else if h : px < 64 ∧ py < 32 then some (⟨px, h.1⟩, ⟨py, h.2⟩)
  else none

/-- The cells that one row byte toggles, bit 7 at column `x0` (R252). -/
def rowCells (wrap : Bool) (x0 y : Nat) (b : Byte) : List (Fin 64 × Fin 32) :=
  (List.range 8).filterMap fun c => if b.getLsbD (7 - c) then placePixel wrap (x0 + c) y else none

/-- The cells that a sprite toggles, in the order of R253: the first byte is the top row (R252). -/
def spriteCells (wrap : Bool) (x0 : Nat) : Nat → List Byte → List (Fin 64 × Fin 32)
  | _, [] => []
  | y, b :: rows => rowCells wrap x0 y b ++ spriteCells wrap x0 (y + 1) rows

/-- One toggled cell: it collides when the pixel was on (R254). -/
def blitCell (p : Framebuffer × Bool) (c : Fin 64 × Fin 32) : Framebuffer × Bool :=
  (togglePixel p.1 c.1 c.2, p.2 || pixelAt p.1 c.1 c.2)

/-- `blit(x0, y0, rows)` (R253): the new framebuffer, and whether a cell collided. -/
def blit (wrap : Bool) (x0 y0 : Nat) (rows : List Byte) (fb : Framebuffer) : Framebuffer × Bool :=
  (spriteCells wrap x0 y0 rows).foldl blitCell (fb, false)

/-! ## Outcomes -/

/-- Goes on from a next state; a fault or a refusal stays. -/
def onNext (o : Host.Outcome State Fault Refusal) (f : State → State) : Host.Outcome State Fault Refusal :=
  match o with
  | .next s => .next (f s)
  | .fault r => .fault r
  | .refused r => .refused r

end Sys2Proof.Machine
end

