-- ==== Sys2Proof/Machine/Operands.lean ====
section
/-!
DEFINITION. Machine/Operands.lean: the operand forms: the shift source, the bytes at `I` with their range check, decimal
digits, the font address, and the pressed keys (42_register_alu.md to 45_keys_timers.md).
-/

namespace Sys2Proof.Machine

/-- The shifted register: Vy when `SHIFT_SOURCE_VY`, else Vx (R198, R200). -/
def shiftSource (x y : Reg) (s : State) : Byte := if s.cfg.shiftSourceVy then s.V[y] else s.V[x]

/-- `nnn` as an address or an index value: zero-extended (R104). -/
def zextAddr (nnn : Addr12) : Word := nnn.setWidth 16

/-- `nnn + V[0]` in 16 bits, not masked (R168). -/
def jumpTarget (nnn : Addr12) (s : State) : Word := zextAddr nnn + (s.V[(0 : Reg)]).setWidth 16

/-- The range check of an access to `len` bytes at `base` (R80): the first address of 0x1000 or more that it would touch,
none when every byte exists. Addresses are not wrapped (R226). -/
def firstBadAddress (base : Word) (len : Nat) : Option Word :=
  if len = 0 ∨ base.toNat + (len - 1) ≤ 0xFFF then none
  else if 0x1000 ≤ base.toNat then some base
  else some 0x1000

/-- The decimal digits of R223: hundreds, tens, ones. -/
def decimalDigits (v : Byte) : List Byte := [v / 100, v / 10 % 10, v % 10]

/-- The bytes V0 to Vx, in rising order (R224). -/
def regsUpTo (x : Reg) (s : State) : List Byte := s.V.toList.take (x.val + 1)

/-- The address of a glyph, unmasked (R222). -/
def fontAddress (s : State) (v : Byte) : Word := s.cfg.fontBase.setWidth 16 + v.setWidth 16 * 5

/-- `I` after a bulk transfer of V0 to Vx (R224, R225). -/
def indexAfterTransfer (x : Reg) (s : State) : Word :=
  if s.cfg.loadStoreIncrementI then s.I + BitVec.ofNat 16 (x.val + 1) else s.I

/-- The key number in a register, none when it is above 0xF (R280, R281). -/
def keyNumber (v : Byte) : Option Key := if h : v.toNat < 16 then some ⟨v.toNat, h⟩ else none

/-- The pressed keys, in rising order: the set P of R283. -/
def pressedKeys (s : State) : List Key := (List.finRange 16).filter fun k => s.KEY[k]

/-- `draw_key(P)` for P = k :: ks (R13, R283): the one member, or a free choice among several. -/
def drawnKey (k : Key) (ks : List Key) (s : State) : Key :=
  match ks with
  | [] => k
  | _ :: _ => (k :: ks).getD (Config.freeKey s.host.keyCount % (k :: ks).length) k

/-- The state after `draw_key`: a free choice has been used up. -/
def afterKeyDraw (ks : List Key) (s : State) : State :=
  match ks with
  | [] => s
  | _ :: _ => { s with host := { s.host with keyCount := s.host.keyCount + 1 } }

/-- `draw_byte()` (R13, R201): the byte the host has supplied, or the free byte. -/
def drawnByte (s : State) : Byte :=
  match s.host.rndIn with
  | b :: _ => b
  | [] => Config.freeByte s.host.rndCount

/-- The state after `draw_byte`: the draw has been used up. -/
def afterByteDraw (s : State) : State :=
  { s with host := { s.host with rndIn := s.host.rndIn.tail, rndCount := s.host.rndCount + 1 } }

end Sys2Proof.Machine
end

