-- ==== Sys2Proof/Machine/Flags.lean ====
section
/-!
DEFINITION. Machine/Flags.lean: the values that instructions write to VF as a flag (10_state.md R33). Each is computed from
the operands as they were before the instruction (42_register_alu.md R202).
-/

namespace Sys2Proof.Machine

/-- A flag value: 1 or 0. -/
def flagByte (b : Bool) : Byte := if b then 1 else 0

/-- Carry of 8xy4: the unreduced sum exceeds 255 (R196). -/
def carryFlag (a b : Byte) : Byte := flagByte (decide (255 < a.toNat + b.toNat))

/-- No borrow of `a - b`: a ≥ b (R197, R199). -/
def noBorrowFlag (a b : Byte) : Byte := flagByte (decide (b.toNat ≤ a.toNat))

/-- The bit shifted out to the right: bit 0 (R198). -/
def shrFlag (v : Byte) : Byte := v &&& 1

/-- The bit shifted out to the left: bit 7 (R200). -/
def shlFlag (v : Byte) : Byte := (v >>> 7) &&& 1

/-- `ADD I, Vx`: the unreduced sum is 0x1000 or more (R221). -/
def indexFlag (i : Word) (v : Byte) : Byte := flagByte (decide (0x1000 ≤ i.toNat + v.toNat))

/-- A result of OR, AND or XOR: VF is cleared after it when `LOGIC_VF_RESET` (R193 to R195). -/
def State.setVLogic (s : State) (x : Reg) (v : Byte) : State :=
  if s.cfg.logicVfReset then s.setVThenFlag x v 0 else s.setV x v

end Sys2Proof.Machine
end

