-- ==== Sys2Proof/Machine/Alu.lean ====
section
/-!
DEFINITION. Machine/Alu.lean: register loads and arithmetic (42_register_alu.md R190 to R201).
-/

namespace Sys2Proof.Machine

/-- R190: `LD Vx, byte`. -/
def execLdImm (x : Reg) (kk : Byte) (s : State) : Host.Outcome State Fault Refusal := .next (s.setV x kk).advance

/-- R191: `ADD Vx, byte`, no flag. -/
def execAddImm (x : Reg) (kk : Byte) (s : State) : Host.Outcome State Fault Refusal := .next (s.setV x (s.V[x] + kk)).advance

/-- R192: `LD Vx, Vy`. -/
def execLdReg (x y : Reg) (s : State) : Host.Outcome State Fault Refusal := .next (s.setV x s.V[y]).advance

/-- R193: `OR Vx, Vy`. -/
def execOrReg (x y : Reg) (s : State) : Host.Outcome State Fault Refusal := .next (s.setVLogic x (s.V[x] ||| s.V[y])).advance

/-- R194: `AND Vx, Vy`. -/
def execAndReg (x y : Reg) (s : State) : Host.Outcome State Fault Refusal := .next (s.setVLogic x (s.V[x] &&& s.V[y])).advance

/-- R195: `XOR Vx, Vy`. -/
def execXorReg (x y : Reg) (s : State) : Host.Outcome State Fault Refusal := .next (s.setVLogic x (s.V[x] ^^^ s.V[y])).advance

/-- R196: `ADD Vx, Vy`, VF the carry. -/
def execAddReg (x y : Reg) (s : State) : Host.Outcome State Fault Refusal :=
  .next (s.setVThenFlag x (s.V[x] + s.V[y]) (carryFlag s.V[x] s.V[y])).advance

/-- R197: `SUB Vx, Vy`, VF the NOT borrow. -/
def execSubReg (x y : Reg) (s : State) : Host.Outcome State Fault Refusal :=
  .next (s.setVThenFlag x (s.V[x] - s.V[y]) (noBorrowFlag s.V[x] s.V[y])).advance

/-- R198: `SHR Vx, Vy`. -/
def execShr (x y : Reg) (s : State) : Host.Outcome State Fault Refusal :=
  .next (s.setVThenFlag x (shiftSource x y s >>> 1) (shrFlag (shiftSource x y s))).advance

/-- R199: `SUBN Vx, Vy`, VF the NOT borrow. -/
def execSubn (x y : Reg) (s : State) : Host.Outcome State Fault Refusal :=
  .next (s.setVThenFlag x (s.V[y] - s.V[x]) (noBorrowFlag s.V[y] s.V[x])).advance

/-- R200: `SHL Vx, Vy`. -/
def execShl (x y : Reg) (s : State) : Host.Outcome State Fault Refusal :=
  .next (s.setVThenFlag x (shiftSource x y s <<< 1) (shlFlag (shiftSource x y s))).advance

/-- R201: `RND Vx, byte`: a draw under a mask; a mask of 0 still takes a draw. -/
def execRnd (x : Reg) (kk : Byte) (s : State) : Host.Outcome State Fault Refusal :=
  .next ((afterByteDraw s).setV x (drawnByte s &&& kk)).advance

end Sys2Proof.Machine
end

