-- ==== Sys2Proof/Machine/Control.lean ====
section
/-!
DEFINITION. Machine/Control.lean: control flow (41_control_flow.md R160 to R168).
-/

namespace Sys2Proof.Machine

/-- R160: `SYS addr` is a no-op. -/
def execSys (_nnn : Addr12) (s : State) : Host.Outcome State Fault Refusal := .next s.advance

/-- R161: `RET`. -/
def execRet (s : State) : Host.Outcome State Fault Refusal :=
  match s.S.getLast? with
  | none => raiseError .ret .stackUnderflow none s
  | some a => .next ((s.setS s.S.dropLast).setPc a)

/-- R162: `JP addr`. -/
def execJp (nnn : Addr12) (s : State) : Host.Outcome State Fault Refusal := .next (s.setPc (zextAddr nnn))

/-- R163: `CALL addr`. -/
def execCall (nnn : Addr12) (s : State) : Host.Outcome State Fault Refusal :=
  if s.S.length = s.cfg.stackDepth then raiseError (.call nnn) .stackOverflow none s
  else .next ((s.setS (s.S ++ [s.pc + 2])).setPc (zextAddr nnn))

/-- R164: `SE Vx, byte`. -/
def execSeImm (x : Reg) (kk : Byte) (s : State) : Host.Outcome State Fault Refusal := .next (s.skipIf (s.V[x] == kk))

/-- R165: `SNE Vx, byte`. -/
def execSneImm (x : Reg) (kk : Byte) (s : State) : Host.Outcome State Fault Refusal := .next (s.skipIf (s.V[x] != kk))

/-- R166: `SE Vx, Vy`. -/
def execSeReg (x y : Reg) (s : State) : Host.Outcome State Fault Refusal := .next (s.skipIf (s.V[x] == s.V[y]))

/-- R167: `SNE Vx, Vy`. -/
def execSneReg (x y : Reg) (s : State) : Host.Outcome State Fault Refusal := .next (s.skipIf (s.V[x] != s.V[y]))

/-- R168: `JP V0, addr`. -/
def execJpV0 (nnn : Addr12) (s : State) : Host.Outcome State Fault Refusal := .next (s.setPc (jumpTarget nnn s))

end Sys2Proof.Machine
end

