-- ==== Sys2Proof/Machine/Display.lean ====
section
/-!
DEFINITION. Machine/Display.lean: `CLS` and `DRW` (44_display.md R256, R257).
-/

namespace Sys2Proof.Machine

/-- R256: `CLS`; VF is not written. -/
def execCls (s : State) : Host.Outcome State Fault Refusal := .next s.clear.advance

/-- The blit of `DRW`: start coordinates modulo 64 and 32, the `n` rows at `I` (R257). -/
def drwBlit (x y : Reg) (n : Nibble) (s : State) : Framebuffer × Bool :=
  blit s.cfg.spriteWrap ((s.V[x]).toNat % 64) ((s.V[y]).toNat % 32) (s.readBytes s.I.toNat n.toNat) s.FB

/-- R257: `DRW Vx, Vy, nibble`: all checks first, then the framebuffer, then VF. -/
def execDrw (x y : Reg) (n : Nibble) (s : State) : Host.Outcome State Fault Refusal :=
  match firstBadAddress s.I n.toNat with
  | some a => raiseError (.drw x y n) .memoryOutOfRange (some a) s
  | none => .next ((s.setFB (drwBlit x y n s).1).setV regVF (flagByte (drwBlit x y n s).2)).advance

end Sys2Proof.Machine
end

