-- ==== Sys2Proof/Machine/Index.lean ====
section
/-!
DEFINITION. Machine/Index.lean: the index register and memory transfers (43_index_memory.md R220 to R225). The range check
comes before every write (R80).
-/

namespace Sys2Proof.Machine

/-- R220: `LD I, addr`. -/
def execLdI (nnn : Addr12) (s : State) : Host.Outcome State Fault Refusal := .next (s.setI (zextAddr nnn)).advance

/-- R221: `ADD I, Vx`: I in 16 bits, then VF from the unreduced sum. -/
def execAddI (x : Reg) (s : State) : Host.Outcome State Fault Refusal :=
  .next ((s.setI (s.I + (s.V[x]).setWidth 16)).setV regVF (indexFlag s.I s.V[x])).advance

/-- R222: `LD F, Vx`. -/
def execLdF (x : Reg) (s : State) : Host.Outcome State Fault Refusal := .next (s.setI (fontAddress s s.V[x])).advance

/-- R223: `LD B, Vx`. -/
def execLdB (x : Reg) (s : State) : Host.Outcome State Fault Refusal :=
  match firstBadAddress s.I 3 with
  | some a => raiseError (.ldB x) .memoryOutOfRange (some a) s
  | none => .next (s.writeBytes s.I.toNat (decimalDigits s.V[x])).advance

/-- R224: `LD [I], Vx`. -/
def execStoreRegs (x : Reg) (s : State) : Host.Outcome State Fault Refusal :=
  match firstBadAddress s.I (x.val + 1) with
  | some a => raiseError (.storeRegs x) .memoryOutOfRange (some a) s
  | none => .next ((s.writeBytes s.I.toNat (regsUpTo x s)).setI (indexAfterTransfer x s)).advance

/-- R225: `LD Vx, [I]`. -/
def execLoadRegs (x : Reg) (s : State) : Host.Outcome State Fault Refusal :=
  match firstBadAddress s.I (x.val + 1) with
  | some a => raiseError (.loadRegs x) .memoryOutOfRange (some a) s
  | none =>
    .next ((s.setRegs (loadRegsFrom (s.readBytes s.I.toNat (x.val + 1)) 0 s.V)).setI (indexAfterTransfer x s)).advance

end Sys2Proof.Machine
end

