-- ==== Sys2Proof/Machine/KeysTimers.lean ====
section
/-!
DEFINITION. Machine/KeysTimers.lean: keypad and timer instructions (45_keys_timers.md R280 to R285).
-/

namespace Sys2Proof.Machine

/-- R280: `SKP Vx`. -/
def execSkp (x : Reg) (s : State) : Host.Outcome State Fault Refusal :=
  match keyNumber s.V[x] with
  | none => raiseError (.skp x) .keyOutOfRange (some ((s.V[x]).setWidth 16)) s
  | some k => .next (s.skipIf s.KEY[k])

/-- R281: `SKNP Vx`. -/
def execSknp (x : Reg) (s : State) : Host.Outcome State Fault Refusal :=
  match keyNumber s.V[x] with
  | none => raiseError (.sknp x) .keyOutOfRange (some ((s.V[x]).setWidth 16)) s
  | some k => .next (s.skipIf (!s.KEY[k]))

/-- R282: `LD Vx, DT`. -/
def execLdVxDT (x : Reg) (s : State) : Host.Outcome State Fault Refusal := .next (s.setV x s.DT).advance

/-- R283: `LD Vx, K`: with no key pressed nothing is written, and the same instruction is fetched again. -/
def execLdVxK (x : Reg) (s : State) : Host.Outcome State Fault Refusal :=
  match pressedKeys s with
  | [] => .next s
  | k :: ks => .next ((afterKeyDraw ks s).setV x (BitVec.ofNat 8 (drawnKey k ks s).val)).advance

/-- R284: `LD DT, Vx`. -/
def execLdDT (x : Reg) (s : State) : Host.Outcome State Fault Refusal := .next (s.setDT s.V[x]).advance

/-- R285: `LD ST, Vx`. -/
def execLdST (x : Reg) (s : State) : Host.Outcome State Fault Refusal := .next (s.setST s.V[x]).advance

end Sys2Proof.Machine
end

