-- ==== Sys2Proof/Machine/Unassigned.lean ====
section
/-!
DEFINITION. Machine/Unassigned.lean: the nine rows of unassigned words (30_encoding.md R108): the default no-op of
40_cpu_cycle.md R146, which advances `pc` and writes nothing else.
-/

namespace Sys2Proof.Machine

/-- R146: the default no-op. -/
def defaultNoOp (s : State) : Host.Outcome State Fault Refusal := .next s.advance

/-- R146 for 8xy8. -/
def execNop8xy8 (_x _y : Reg) (s : State) : Host.Outcome State Fault Refusal := defaultNoOp s

/-- R146 for 8xy9. -/
def execNop8xy9 (_x _y : Reg) (s : State) : Host.Outcome State Fault Refusal := defaultNoOp s

/-- R146 for 8xyA. -/
def execNop8xyA (_x _y : Reg) (s : State) : Host.Outcome State Fault Refusal := defaultNoOp s

/-- R146 for 8xyB. -/
def execNop8xyB (_x _y : Reg) (s : State) : Host.Outcome State Fault Refusal := defaultNoOp s

/-- R146 for 8xyC. -/
def execNop8xyC (_x _y : Reg) (s : State) : Host.Outcome State Fault Refusal := defaultNoOp s

/-- R146 for 8xyD. -/
def execNop8xyD (_x _y : Reg) (s : State) : Host.Outcome State Fault Refusal := defaultNoOp s

/-- R146 for 8xyF. -/
def execNop8xyF (_x _y : Reg) (s : State) : Host.Outcome State Fault Refusal := defaultNoOp s

/-- R146 for ExKK with no assigned selector. -/
def execNopEx (_x : Reg) (_kk : Byte) (s : State) : Host.Outcome State Fault Refusal := defaultNoOp s

/-- R146 for FxKK with no assigned selector. -/
def execNopFx (_x : Reg) (_kk : Byte) (s : State) : Host.Outcome State Fault Refusal := defaultNoOp s

end Sys2Proof.Machine
end

