-- ==== Sys2Proof/Machine/Cycle.lean ====
section
/-!
DEFINITION. Machine/Cycle.lean: the CPU tick (40_cpu_cycle.md R140 to R148): fetch, decode, execute.
-/

namespace Sys2Proof.Machine

/-- The last address at which an instruction can be fetched whole (R143). -/
def lastFetch : Nat := 0xFFE

/-- The instruction word at `pc` (R100): two single-byte reads, big-endian. -/
def fetchWord (s : State) : Word := wordOfBytes (s.readByte s.pc.toNat) (s.readByte (s.pc.toNat + 1))

/-- The record of a fetch past the top of memory (R143). -/
def fetchErrorRecord (s : State) : ErrorRecord := { kind := .fetchOutOfRange, pc := s.pc, word := none, info := none }

/-- One CPU tick (R147). Fetch does not change `pc` (R141), and decoding cannot fail (R142). -/
def cpuTick (s : State) : Host.Outcome State Fault Refusal :=
  if lastFetch < s.pc.toNat then .next (s.logError (fetchErrorRecord s))
  else Sys2Proof.Machine.exec (decodeWord (fetchWord s)) s

end Sys2Proof.Machine
end

