-- ==== Sys2Proof/Machine/Scheduler.lean ====
section
/-!
DEFINITION. Machine/Scheduler.lean: the time base (60_exceptions.md R320 to R332): the timer and frame ticks, a scheduler pass
cut into its ticks, and the pass as a whole.
-/

namespace Sys2Proof.Machine

/-- The CPU period in time units (R321). -/
def cpuPeriod : Nat := 60

/-- A counter's timer tick: floor at 0 (R39, R330). -/
def decTimer (v : Byte) : Byte := if v = 0 then 0 else v - 1

/-- `timer_tick` (R330). Reaching 0 is no event (R331). -/
def timerTick (s : State) : State := { s with DT := decTimer s.DT, ST := decTimer s.ST }

/-- Hands the host something. -/
def State.emit (s : State) (o : HostOutput) : State := { s with host := { s.host with out := s.host.out ++ [o] } }

/-- The read-only snapshot for the renderer: a copy of all 2048 pixels (R255, R332). -/
def snapshot (s : State) : Framebuffer := s.FB

/-- `frame_tick` (R332): the host is handed the snapshot; no core state is written. -/
def frameTick (s : State) : State := s.emit (.frame (snapshot s))

/-- `sound_active` (R344). -/
def soundActive (s : State) : Bool := s.ST != 0

/-- The start of a pass with elapsed time `e` (R322): a stopped core does nothing. -/
def beginPass (e : Nat) (s : State) : State :=
  if s.running then { s with cpuAcc := s.cpuAcc + e, pass := some e } else s

/-- The end of a pass, after its CPU ticks (R322, R325): at most one timer tick and one frame tick, timer first (R324). The two
are one step, so that no host action comes between them, though R326 and R340 let one come between any two ticks: DESIGN CHOICE
(assumption 21). -/
def endPass (e : Nat) (s : State) : State :=
  if s.cfg.cpuHz ≤ s.tmrAcc + e then
    frameTick (timerTick { s with tmrAcc := s.tmrAcc + e - s.cfg.cpuHz, pass := none })
  else { s with tmrAcc := s.tmrAcc + e, pass := none }

/-- The CPU tick has used up its period (R322). -/
def spendCpu (s : State) : State := { s with cpuAcc := s.cpuAcc - cpuPeriod }

/-- The next tick of the pass in progress (R322). A stop leaves the pass without its timer and frame tick; between passes
nothing is due. -/
def passTick (s : State) : Host.Outcome State Fault Refusal :=
  match s.pass with
  | none => .next s
  | some e =>
    if s.running then
      if cpuPeriod ≤ s.cpuAcc then onNext (cpuTick s) spendCpu else .next (endPass e s)
    else .next { s with pass := none }

/-- A number of ticks of the pass in progress. -/
def passTicks : Nat → State → Host.Outcome State Fault Refusal
  | 0, s => .next s
  | k + 1, s =>
    match passTick s with
    | .next t => passTicks k t
    | .fault r => .fault r
    | .refused r => .refused r

/-- `pass(s, e)` as a whole (R322), with no host action inside it: its CPU ticks (R323), then its end. -/
def schedulerPass (e : Nat) (s : State) : Host.Outcome State Fault Refusal :=
  passTicks ((s.cpuAcc + e) / cpuPeriod + 1) (beginPass e s)

/-- A pass whose CPU ticks are done ends at once when no host action comes between. -/
def settle (s : State) : State :=
  match s.pass with
  | none => s
  | some e => if s.running ∧ s.cpuAcc < cpuPeriod then endPass e s else s

/-- Between passes the host of the empty script makes its regular call `pass(60)` (R347, assumption 6). -/
def regularPass (s : State) : State :=
  match s.pass with
  | none => beginPass cpuPeriod s
  | some _ => s

/-- The step of a core whose host only makes its regular calls: one CPU tick, and the end of the pass when it is due. -/
def freeStep (s : State) : Host.Outcome State Fault Refusal := onNext (passTick (regularPass s)) settle

end Sys2Proof.Machine
end

