-- ==== Sys2Proof/Machine/HostOps.lean ====
section
/-!
DEFINITION. Machine/HostOps.lean: what the host does to the core (60_exceptions.md R340 to R345; load and reset,
70_reset_and_hazards.md R350 to R355), and the core's step under the host's script.
-/

namespace Sys2Proof.Machine

/-- `init(s, rom)` (R353). `KEY` is not touched, nor is what is no element of R46. -/
def initState (rom : List Byte) (s : State) : State :=
  { s with
    mem := memWriteBytes s.cfg [] programStart rom
    pc := 0x200
    V := Vector.replicate 16 0
    I := 0
    S := []
    DT := 0
    ST := 0
    FB := Framebuffer.allOff
    errors := []
    cpuAcc := 0
    tmrAcc := 0
    rom := some rom
    running := true }

/-- `load(rom)` (R350, R351); a configuration outside its domain prevents startup (R303). -/
def load (rom : List Byte) (s : State) : LoadReply × State :=
  if maxRom < rom.length then (.error .oversize, s)
  else if s.cfg.ok then (.success, initState rom s)
  else (.error .badConfig, s)

/-- `reset()` (R352): the stored ROM again; before any successful `load` there is none. -/
def resetCore (s : State) : LoadReply × State :=
  match s.rom with
  | none => (.error .noRom, s)
  | some rom => if s.cfg.ok then (.success, initState rom s) else (.error .badConfig, s)

/-- `set_key(k, b)` (R341). -/
def setKey (k : Key) (b : Bool) (s : State) : State := { s with KEY := s.KEY.set k b }

/-- `stop()` (R326, R343). -/
def stop (s : State) : State := { s with running := false }

/-- The host puts a byte into the random source (R340). -/
def supplyRandom (b : Byte) (s : State) : State := { s with host := { s.host with rndIn := s.host.rndIn ++ [b] } }

/-- The host is given the answer of `load` or `reset`. -/
def answer (p : LoadReply × State) : State := p.2.emit (.reply p.1)

/-- The script with its first action taken. -/
def State.withScript (s : State) (l : List HostAction) : State := { s with host := { s.host with script := l } }

/-- One action of the host and what follows from it (R340). A `pass` is held while a pass is in progress: the host calls it
only when the core is not inside one. -/
def hostStep (a : HostAction) (rest : List HostAction) (s : State) : Host.Outcome State Fault Refusal :=
  match a with
  | .load rom => .next (answer (load rom (s.withScript rest)))
  | .reset => .next (answer (resetCore (s.withScript rest)))
  | .setKey k b => .next (setKey k b (s.withScript rest))
  | .stop => .next (stop (s.withScript rest))
  | .random b => .next (supplyRandom b (s.withScript rest))
  | .wait => passTick (s.withScript rest)
  | .pass e =>
    match s.pass with
    | none => .next (beginPass e (s.withScript rest))
    | some _ => passTick s

/-- One step: the host's next action, between two core steps (R5); with an empty script, the core's own next step. -/
def machineStep (s : State) : Host.Outcome State Fault Refusal :=
  match s.host.script with
  | [] => freeStep s
  | a :: rest => hostStep a rest s

/-- Where an instruction can be fetched: `pc`, or the program start when `pc` is past the last whole word. -/
def fetchablePc (s : State) : Word := if lastFetch < s.pc.toNat then 0x200 else s.pc

/-- The state whose next step runs the given two bytes: they stand at `pc`, the core runs, no host action comes first, and a
CPU tick is due. -/
def placeAtFetch (bytes : List Byte) (s : State) : State :=
  { (s.setPc (fetchablePc s)).writeBytes (fetchablePc s).toNat bytes with
    running := true
    pass := if s.cpuAcc < cpuPeriod then none else s.pass
    host := { s.host with script := [] } }

end Sys2Proof.Machine
end

