-- ==== Sys2Proof/Machine/Step.lean ====
section
/-!
DEFINITION. Machine/Step.lean: the step of the machine, and the placing of one instruction where the step fetches it.
-/

namespace Sys2Proof.Machine

/-- One step of the machine: the host's next action, or the core's next tick. -/
def step (s : State) : Host.Outcome State Fault Refusal := machineStep s

/-- The instruction of the low `nbits` bits of `w` (at most 16, the longest instruction), placed where `step` fetches next. -/
def State.withFetchWord (s : State) (nbits w : Nat) : State :=
  placeAtFetch [highByte (BitVec.ofNat 16 (w % 2 ^ nbits)), lowByte (BitVec.ofNat 16 (w % 2 ^ nbits))] s

end Sys2Proof.Machine
end

