-- ==== Sys2Proof/Safety.lean ====
section
/-!
DEFINITION. Safety.lean: the terms in which claims are made: what a step left unchanged, the invariants of the machine, a run
with no error in its log, and the drawn pixels of a sprite.
-/

namespace Sys2Proof.Machine

/-- The elements of the state that a frame can name. `draws` is the random source and the two draw counters; `sched` is
`cpu_acc`, `tmr_acc`, `running` and the pass in progress; `hostLog` is the host's script and what it has been handed. -/
inductive Elem where
  | mem | V | I | pc | S | DT | ST | FB | KEY | errors | rom | cfg | sched | draws | hostLog
deriving DecidableEq, Repr

/-- An element is the same in two states; memory byte by byte. -/
def Elem.same (s t : State) : Elem → Prop
  | .mem => ∀ a, t.readByte a = s.readByte a
  | .V => t.V = s.V
  | .I => t.I = s.I
  | .pc => t.pc = s.pc
  | .S => t.S = s.S
  | .DT => t.DT = s.DT
  | .ST => t.ST = s.ST
  | .FB => t.FB = s.FB
  | .KEY => t.KEY = s.KEY
  | .errors => t.errors = s.errors
  | .rom => t.rom = s.rom
  | .cfg => t.cfg = s.cfg
  | .sched => t.cpuAcc = s.cpuAcc ∧ t.tmrAcc = s.tmrAcc ∧ t.running = s.running ∧ t.pass = s.pass
  | .draws => t.host.rndIn = s.host.rndIn ∧ t.host.rndCount = s.host.rndCount ∧ t.host.keyCount = s.host.keyCount
  | .hostLog => t.host.script = s.host.script ∧ t.host.out = s.host.out

/-- Every element outside the list is unchanged. -/
def UnchangedBut (written : List Elem) (s t : State) : Prop := ∀ e, e ∉ written → e.same s t

/-- Every register other than the two named ones is unchanged. -/
def RegsBut (x y : Reg) (s t : State) : Prop := ∀ r : Reg, r ≠ x → r ≠ y → t.V[r] = s.V[r]

/-- The instruction completes: it answers this next state. -/
def Completes (i : Instr) (s t : State) : Prop := exec i s = .next t

/-- The instruction raised an error (R145): one more record with the instruction's word, `pc + 2`, and nothing else changed. -/
def Raised (i : Instr) (k : ErrorKind) (info : Option Word) (s t : State) : Prop :=
  t.errors = s.errors ++ [{ kind := k, pc := s.pc, word := some (encode i), info := info }] ∧ t.pc = s.pc + 2 ∧
  UnchangedBut [.errors, .pc] s t

/-- A run with no error so far: the premise that 92_eei_decisions.md asks of a claim about a program. -/
def State.clean (s : State) : Bool := s.errors.isEmpty

/-- The invariant of the machine: memory in canonical form (R30), the stack within its bound (R38), a stored ROM that fits
(R351), a running core only with a configuration inside its domain (R303), and between passes less than one CPU period owed (R323). -/
structure Inv (s : State) : Prop where
  memCanonical : s.mem.wf s.cfg = true
  stackBounded : s.S.length ≤ s.cfg.stackDepth
  romFits : ∀ r, s.rom = some r → r.length ≤ maxRom
  configOk : s.running = true → s.cfg.ok = true
  owesLess : s.running = true → s.pass = none → s.cpuAcc < cpuPeriod

/-- No `pc` write of a run wraps (92_eei_decisions.md D10): `pc` is at most 0xFFF + 0xFF, and a return address at most 0xFFE + 2. -/
structure PcBounded (s : State) : Prop where
  pcSmall : s.pc.toNat ≤ 0x10FE
  returnsSmall : ∀ a ∈ s.S, a.toNat ≤ 0x1000

/-- The sprite pixel of row `r` and column `c` (0 the leftmost) is 1 (R252). -/
def spriteBit (rows : List Byte) (r c : Nat) : Bool := (rows.getD r 0).getLsbD (7 - c)

/-- A sprite at (x0, y0) draws the cell (px, py): a 1 bit lies there, after wrapping or clipping (R253). -/
def Draws (wrap : Bool) (x0 y0 : Nat) (rows : List Byte) (px : Fin 64) (py : Fin 32) : Prop :=
  ∃ r c, r < rows.length ∧ c < 8 ∧ spriteBit rows r c = true ∧
    if wrap then (x0 + c) % 64 = px.val ∧ (y0 + r) % 32 = py.val else x0 + c = px.val ∧ y0 + r = py.val

/-- The number of CPU ticks taken in a row, each using up one CPU period. -/
def cpuTicks : Nat → State → Host.Outcome State Fault Refusal
  | 0, s => .next s
  | k + 1, s =>
    match onNext (cpuTick s) spendCpu with
    | .next t => cpuTicks k t
    | .fault r => .fault r
    | .refused r => .refused r

/-- Timer ticks in a row. -/
def timerTicks : Nat → State → State
  | 0, s => s
  | k + 1, s => timerTicks k (timerTick s)

/-- The elements that `load` and `reset` establish (R47) agree. `KEY` is the host's. -/
def SameCore (s t : State) : Prop :=
  t.mem = s.mem ∧ t.V = s.V ∧ t.I = s.I ∧ t.pc = s.pc ∧ t.S = s.S ∧ t.DT = s.DT ∧ t.ST = s.ST ∧ t.FB = s.FB ∧
  t.errors = s.errors ∧ t.cpuAcc = s.cpuAcc ∧ t.tmrAcc = s.tmrAcc ∧ t.rom = s.rom ∧ t.running = s.running

end Sys2Proof.Machine
end

