-- ==== Sys2Proof/Certificates/Slice0/Obligations.lean ====
section
/-!
DEFINITION. Certificates/Slice0/Obligations.lean: what the provers are asked to prove about the model.
-/

open Sys2Proof Sys2Proof.Machine

/-! ## Encoding -/

/-- 30_encoding.md R101, R103, R105: the bytes of every well-formed instruction decode to it, and the bytes after them are left. -/
def Obligations.EncodedInstructionDecodesToItself : Prop :=
  ∀ (i : Instr) (rest : List Byte), WellFormed i = true → decode (encodeBytes i ++ rest) = .ok (i, rest)

/-- R102, R107 (the spec's decision D16): every word decodes to a well-formed instruction, whose word is that word again; families 5 and 9 alone
ignore a field, the low nibble, and encode it as 0. -/
def Obligations.DecodingLosesOnlyTheIgnoredNibble : Prop :=
  ∀ w : Word, WellFormed (decodeWord w) = true ∧
    encode (decodeWord w) = if fieldFamily w = 0x5#4 ∨ fieldFamily w = 0x9#4 then w &&& 0xFFF0#16 else w

/-- INDEX.md ("The opcode table is decoded by taking, among the rows"), R105: the decoder selects, among the rows of the opcode table that fit the word, the one whose mask contains
the mask of every other row that fits. -/
def Obligations.DecoderSelectsTheMostSpecificTableRow : Prop :=
  ∀ w : Word, rowOf (decodeWord w) ∈ opcodeRows ∧ (rowOf (decodeWord w)).fits w = true ∧
    ∀ r ∈ opcodeRows, r.fits w = true → r.mask &&& (rowOf (decodeWord w)).mask = r.mask ∧
      (r.mask = (rowOf (decodeWord w)).mask → r = rowOf (decodeWord w))

/-- 95_test_vectors.md X1 to X12: words written out from the encoding tables. -/
def Obligations.SpecDecoderVectors : Prop :=
  decode [0x00, 0xE0] = .ok (.cls, []) ∧ decode [0x00, 0xEE] = .ok (.ret, []) ∧ decode [0x00, 0x00] = .ok (.sys 0x000, []) ∧
  decode [0x01, 0xE0] = .ok (.sys 0x1E0, []) ∧ decode [0x00, 0xE1] = .ok (.sys 0x0E1, []) ∧
  decode [0xD1, 0x25] = .ok (.drw 1 2 5, []) ∧ decode [0x8A, 0xB4] = .ok (.addReg 0xA 0xB, []) ∧
  decode [0x51, 0x27] = .ok (.seReg 1 2, []) ∧ decode [0xFF, 0xFF] = .ok (.nopFx 0xF 0xFF, []) ∧
  decode [0xE0, 0x9F] = .ok (.nopEx 0 0x9F, []) ∧ decode [0xF0, 0x65] = .ok (.loadRegs 0, []) ∧
  decode [0x1F, 0xFF] = .ok (.jp 0xFFF, [])

/-! ## The step and the CPU tick -/

/-- R140, R141, R147, R322: with no host action pending, a running core and a CPU tick due (a pass with a CPU period owed,
or no pass: then the regular `pass(60)` begins, which is the model's choice, assumption 6), the step is the instruction whose
two bytes stand at `pc`; around it the scheduler spends one CPU period and ends the pass when no CPU tick is left in it. -/
def Obligations.StepRunsTheDecodedInstruction : Prop :=
  ∀ (s : State) (i : Instr), s.host.script = [] → s.running = true → s.pc.toNat ≤ 0xFFE → (s.pass = none ∨ 60 ≤ s.cpuAcc) →
    decode [s.readByte s.pc.toNat, s.readByte (s.pc.toNat + 1)] = .ok (i, []) →
    step s = onNext (exec i (regularPass s)) (fun t => settle (spendCpu t))

/-- R143 (the spec's decision D9): a fetch past the top of memory logs `FetchOutOfRange` with `pc` and no word, and changes nothing else. -/
def Obligations.FetchPastTopLogsAndStays : Prop :=
  ∀ s : State, 0xFFE < s.pc.toNat → ∃ t, cpuTick s = .next t ∧
    t.errors = s.errors ++ [{ kind := .fetchOutOfRange, pc := s.pc, word := none, info := none }] ∧
    UnchangedBut [.errors] s t

/-- R145, R300 (the spec's decisions D7, D8, D14, D31; assumption 9): what a CPU tick at a fetchable `pc` appends to the log carries that `pc` and the fetched word. -/
def Obligations.ErrorRecordNamesTheFetchedWord : Prop :=
  ∀ s t : State, s.pc.toNat ≤ 0xFFE → cpuTick s = .next t →
    t.errors = s.errors ∨
    ∃ r, t.errors = s.errors ++ [r] ∧ r.pc = s.pc ∧ r.word = some (fetchWord s) ∧ r.kind ≠ .fetchOutOfRange ∧ t.pc = s.pc + 2

/-- R302, R308: nothing stops the core (the model has no fault, assumption 13): every step of every state answers a next state. -/
def Obligations.EveryStepAnswersANextState : Prop := ∀ s : State, ∃ t, step s = .next t

/-- R38, R303, R323 and the canonical form of memory (assumptions 10 and 11): the machine's invariant holds after every step, host actions included. -/
def Obligations.StepKeepsTheMachineInvariant : Prop := ∀ s t : State, Inv s → step s = .next t → Inv t

/-- The invariant holds at reset. -/
def Obligations.ResetMeetsTheMachineInvariant : Prop := Inv State.reset

/-- R36 and 92_eei_decisions.md D10: no `pc` write of a run wraps: `pc` stays at most 0x10FE and return addresses at most
0x1000, whatever the host does. -/
def Obligations.StepKeepsPcBounded : Prop := ∀ s t : State, PcBounded s → step s = .next t → PcBounded t

/-- The bound holds at reset. -/
def Obligations.ResetMeetsThePcBound : Prop := PcBounded State.reset

/-- R7: the configuration is fixed for a run. -/
def Obligations.StepKeepsTheConfiguration : Prop := ∀ s t : State, step s = .next t → t.cfg = s.cfg

/-- R300, R307 (derived in the spec): a step appends at most one record to the error log, and takes none away unless the host's next action is
`load` or `reset`. -/
def Obligations.ErrorLogGrowsByAtMostOneRecord : Prop :=
  ∀ s t : State, step s = .next t → s.host.script.head? ≠ some .reset → (∀ rom, s.host.script.head? ≠ some (.load rom)) →
    t.errors = s.errors ∨ ∃ r, t.errors = s.errors ++ [r]

/-! ## Who writes what -/

/-- R30, R34, R38, R39, R40, R41, R343: the only instructions that write each element; none writes the keypad, the
configuration, the stored ROM, the scheduler's state or the host's side. -/
def Obligations.EachElementIsWrittenOnlyByItsInstructions : Prop :=
  ∀ (i : Instr) (s t : State), Completes i s t →
    ((∀ x, i ≠ .ldB x) → (∀ x, i ≠ .storeRegs x) → Elem.same s t .mem) ∧
    ((∀ a, i ≠ .ldI a) → (∀ x, i ≠ .addI x) → (∀ x, i ≠ .ldF x) →
      (s.cfg.loadStoreIncrementI = true → (∀ x, i ≠ .storeRegs x) ∧ ∀ x, i ≠ .loadRegs x) → t.I = s.I) ∧
    ((∀ a, i ≠ .call a) → i ≠ .ret → t.S = s.S) ∧
    ((∀ x, i ≠ .ldDT x) → t.DT = s.DT) ∧ ((∀ x, i ≠ .ldST x) → t.ST = s.ST) ∧
    (i ≠ .cls → (∀ x y n, i ≠ .drw x y n) → t.FB = s.FB) ∧
    Elem.same s t .KEY ∧ Elem.same s t .cfg ∧ Elem.same s t .rom ∧ Elem.same s t .sched ∧ Elem.same s t .hostLog

/-- R33 (derived in the spec): VF is written as a flag only by the instructions listed there; every other instruction writes it only as its
destination (or, for the bulk load, when x = F). -/
def Obligations.VFIsWrittenOnlyByTheListedInstructions : Prop :=
  ∀ (i : Instr) (s t : State), Completes i s t →
    (∀ x y, i ≠ .addReg x y ∧ i ≠ .subReg x y ∧ i ≠ .shr x y ∧ i ≠ .subn x y ∧ i ≠ .shl x y) →
    (∀ x y n, i ≠ .drw x y n) → (∀ x, i ≠ .addI x) →
    (s.cfg.logicVfReset = true → ∀ x y, i ≠ .orReg x y ∧ i ≠ .andReg x y ∧ i ≠ .xorReg x y) →
    (∀ y, i ≠ .orReg regVF y ∧ i ≠ .andReg regVF y ∧ i ≠ .xorReg regVF y) →
    (∀ kk, i ≠ .ldImm regVF kk ∧ i ≠ .addImm regVF kk ∧ i ≠ .rnd regVF kk) → (∀ y, i ≠ .ldReg regVF y) →
    i ≠ .ldVxDT regVF → i ≠ .ldVxK regVF → i ≠ .loadRegs regVF →
    t.V[regVF] = s.V[regVF]

/-- R41, R42: an instruction other than `SKP`, `SKNP` and `LD Vx, K` does not read the keypad: from two states that differ in
the keypad alone it goes to two states that differ in the keypad alone. -/
def Obligations.OnlyThreeInstructionsReadTheKeypad : Prop :=
  ∀ (i : Instr) (s : State) (keys : Vector Bool 16),
    (∀ x, i ≠ .skp x) → (∀ x, i ≠ .sknp x) → (∀ x, i ≠ .ldVxK x) →
    exec i { s with KEY := keys } = onNext (exec i s) (fun t => { t with KEY := keys })

/-! ## Control flow -/

/-- R160: `SYS addr` advances `pc` by 2 and does nothing else. -/
def Obligations.SysIsANoOp : Prop :=
  ∀ (nnn : Addr12) (s : State), ∃ t, Completes (.sys nnn) s t ∧ t.pc = s.pc + 2 ∧ UnchangedBut [.pc] s t

/-- R146: every unassigned word advances `pc` by 2 and does nothing else. -/
def Obligations.UnassignedWordsAreNoOps : Prop :=
  ∀ (i : Instr) (s : State), (∃ x y : Reg, i = .nop8xy8 x y ∨ i = .nop8xy9 x y ∨ i = .nop8xyA x y ∨ i = .nop8xyB x y ∨
      i = .nop8xyC x y ∨ i = .nop8xyD x y ∨ i = .nop8xyF x y) ∨ (∃ (x : Reg) (kk : Byte), i = .nopEx x kk ∨ i = .nopFx x kk) →
    ∃ t, Completes i s t ∧ t.pc = s.pc + 2 ∧ UnchangedBut [.pc] s t

/-- R161: `RET` pops the top of the stack into `pc`, as it is; on an empty stack it raises `StackUnderflow`, with the record and the
completion of R145 and R300 (the spec's decisions D7, D31; the record's word is that of assumption 9). -/
def Obligations.RetPopsOrUnderflows : Prop :=
  ∀ s : State,
    (∀ (below : List Word) (a : Word), s.S = below ++ [a] →
      ∃ t, Completes .ret s t ∧ t.pc = a ∧ t.S = below ∧ UnchangedBut [.pc, .S] s t) ∧
    (s.S = [] → ∃ t, Completes .ret s t ∧ Raised .ret .stackUnderflow none s t)

/-- R162: `JP addr`. -/
def Obligations.JpSetsPc : Prop :=
  ∀ (nnn : Addr12) (s : State), ∃ t, Completes (.jp nnn) s t ∧ t.pc.toNat = nnn.toNat ∧ UnchangedBut [.pc] s t

/-- R163: `CALL addr` pushes the address after it and jumps; with `STACK_DEPTH` entries on the stack it raises `StackOverflow`, with the
record and the completion of R145 and R300 (the spec's decisions D7, D31; the record's word is that of assumption 9). -/
def Obligations.CallPushesOrOverflows : Prop :=
  ∀ (nnn : Addr12) (s : State),
    (s.S.length ≠ s.cfg.stackDepth →
      ∃ t, Completes (.call nnn) s t ∧ t.pc.toNat = nnn.toNat ∧ t.S = s.S ++ [s.pc + 2] ∧ UnchangedBut [.pc, .S] s t) ∧
    (s.S.length = s.cfg.stackDepth → ∃ t, Completes (.call nnn) s t ∧ Raised (.call nnn) .stackOverflow none s t)

/-- 95_test_vectors.md E6: `CALL` and then `RET` come back to the address after the `CALL`, from any `pc`, with the stack as it was. -/
def Obligations.CallThenRetReturnsAfterTheCall : Prop :=
  ∀ (nnn : Addr12) (s : State), s.S.length ≠ s.cfg.stackDepth →
    ∃ t u, Completes (.call nnn) s t ∧ Completes .ret t u ∧ u.pc = s.pc + 2 ∧ UnchangedBut [.pc] s u

/-- R164 to R167: the four skips move `pc` by 4 when their condition holds, else by 2, and change nothing else. -/
def Obligations.SkipsMovePcByFourOrTwo : Prop :=
  ∀ (x y : Reg) (kk : Byte) (s : State),
    (∃ t, Completes (.seImm x kk) s t ∧ t.pc = (if s.V[x] = kk then s.pc + 4 else s.pc + 2) ∧ UnchangedBut [.pc] s t) ∧
    (∃ t, Completes (.sneImm x kk) s t ∧ t.pc = (if s.V[x] ≠ kk then s.pc + 4 else s.pc + 2) ∧ UnchangedBut [.pc] s t) ∧
    (∃ t, Completes (.seReg x y) s t ∧ t.pc = (if s.V[x] = s.V[y] then s.pc + 4 else s.pc + 2) ∧ UnchangedBut [.pc] s t) ∧
    (∃ t, Completes (.sneReg x y) s t ∧ t.pc = (if s.V[x] ≠ s.V[y] then s.pc + 4 else s.pc + 2) ∧ UnchangedBut [.pc] s t)

/-- R168 (the spec's decision D35): `JP V0, addr` jumps to the unmasked sum, at most 0x10FE; the register is always V0. -/
def Obligations.JpV0AddsV0 : Prop :=
  ∀ (nnn : Addr12) (s : State), ∃ t, Completes (.jpV0 nnn) s t ∧
    t.pc.toNat = nnn.toNat + (s.V[(0 : Reg)]).toNat ∧ t.pc.toNat ≤ 0x10FE ∧ UnchangedBut [.pc] s t

/-! ## Register loads and arithmetic -/

/-- R190, R191, R192: `LD Vx, byte`, `ADD Vx, byte` (modulo 256, no flag) and `LD Vx, Vy` write Vx alone. -/
def Obligations.LoadsAndAddImmediateWriteVxAlone : Prop :=
  ∀ (x y : Reg) (kk : Byte) (s : State),
    (∃ t, Completes (.ldImm x kk) s t ∧ t.V[x] = kk ∧ RegsBut x x s t ∧ t.pc = s.pc + 2 ∧ UnchangedBut [.V, .pc] s t) ∧
    (∃ t, Completes (.addImm x kk) s t ∧ (t.V[x]).toNat = ((s.V[x]).toNat + kk.toNat) % 256 ∧ RegsBut x x s t ∧
      t.pc = s.pc + 2 ∧ UnchangedBut [.V, .pc] s t) ∧
    (∃ t, Completes (.ldReg x y) s t ∧ t.V[x] = s.V[y] ∧ RegsBut x x s t ∧ t.pc = s.pc + 2 ∧ UnchangedBut [.V, .pc] s t)

/-- R193, R194, R195 (the spec's decision D2): OR, AND and XOR, bit by bit; with `LOGIC_VF_RESET` VF ends 0, x = F included; without it VF is written
only as destination. -/
def Obligations.LogicResultsAndVFReset : Prop :=
  ∀ (x y : Reg) (s : State), ∀ p ∈ [(Instr.orReg x y, or), (.andReg x y, and), (.xorReg x y, xor)], ∃ t, Completes p.1 s t ∧
    (x ≠ regVF ∨ s.cfg.logicVfReset = false → ∀ k, k < 8 → (t.V[x]).getLsbD k = p.2 ((s.V[x]).getLsbD k) ((s.V[y]).getLsbD k)) ∧
    (s.cfg.logicVfReset = true → t.V[regVF] = 0) ∧
    (s.cfg.logicVfReset = false → RegsBut x x s t) ∧ RegsBut x regVF s t ∧ t.pc = s.pc + 2 ∧ UnchangedBut [.V, .pc] s t

/-- R196, R197, R199: ADD, SUB and SUBN modulo 256, from the operands before the instruction; VF is written last, so for
x = F it holds the flag (R32, R202: the spec's decision D1). -/
def Obligations.AddAndSubtractWithFlag : Prop :=
  ∀ (x y : Reg) (s : State),
    (∃ t, Completes (.addReg x y) s t ∧
      (x ≠ regVF → (t.V[x]).toNat = ((s.V[x]).toNat + (s.V[y]).toNat) % 256) ∧
      t.V[regVF] = (if (s.V[x]).toNat + (s.V[y]).toNat > 255 then 1 else 0) ∧
      RegsBut x regVF s t ∧ t.pc = s.pc + 2 ∧ UnchangedBut [.V, .pc] s t) ∧
    (∃ t, Completes (.subReg x y) s t ∧
      (x ≠ regVF → ((t.V[x]).toNat : Int) = ((s.V[x]).toNat - (s.V[y]).toNat : Int) % 256) ∧
      t.V[regVF] = (if (s.V[x]).toNat ≥ (s.V[y]).toNat then 1 else 0) ∧
      RegsBut x regVF s t ∧ t.pc = s.pc + 2 ∧ UnchangedBut [.V, .pc] s t) ∧
    (∃ t, Completes (.subn x y) s t ∧
      (x ≠ regVF → ((t.V[x]).toNat : Int) = ((s.V[y]).toNat - (s.V[x]).toNat : Int) % 256) ∧
      t.V[regVF] = (if (s.V[y]).toNat ≥ (s.V[x]).toNat then 1 else 0) ∧
      RegsBut x regVF s t ∧ t.pc = s.pc + 2 ∧ UnchangedBut [.V, .pc] s t)

/-- R198, R200 (the spec's decisions D1, D3): the shifts move one bit; VF is the bit shifted out, written last; the source is Vx, or Vy when
`SHIFT_SOURCE_VY`. -/
def Obligations.ShiftsByOneWithFlag : Prop :=
  ∀ (x y : Reg) (s : State) (src : Nat), src = (if s.cfg.shiftSourceVy then (s.V[y]).toNat else (s.V[x]).toNat) →
    (∃ t, Completes (.shr x y) s t ∧ (x ≠ regVF → (t.V[x]).toNat = src / 2) ∧ (t.V[regVF]).toNat = src % 2 ∧
      RegsBut x regVF s t ∧ t.pc = s.pc + 2 ∧ UnchangedBut [.V, .pc] s t) ∧
    (∃ t, Completes (.shl x y) s t ∧ (x ≠ regVF → (t.V[x]).toNat = src * 2 % 256) ∧ (t.V[regVF]).toNat = src / 128 ∧
      RegsBut x regVF s t ∧ t.pc = s.pc + 2 ∧ UnchangedBut [.V, .pc] s t)

/-- R201 (the spec's decision D26): `RND Vx, byte` stores a draw under the mask `kk` and takes exactly one draw, also when `kk` = 0.
That a byte the host supplied is the draw, and a free byte otherwise, is the model's form of R13 (assumption 4). -/
def Obligations.RndStoresOneDrawUnderTheMask : Prop :=
  ∀ (x : Reg) (kk : Byte) (s : State), ∃ t r, Completes (.rnd x kk) s t ∧ t.V[x] = r &&& kk ∧
    (∀ b rest, s.host.rndIn = b :: rest → r = b ∧ t.host.rndIn = rest) ∧
    (s.host.rndIn = [] → r = Config.freeByte s.host.rndCount ∧ t.host.rndIn = []) ∧
    t.host.rndCount = s.host.rndCount + 1 ∧ t.host.keyCount = s.host.keyCount ∧
    RegsBut x x s t ∧ t.pc = s.pc + 2 ∧ UnchangedBut [.V, .pc, .draws] s t

/-! ## Index register and memory -/

/-- R220: `LD I, addr`. -/
def Obligations.LdISetsTheIndex : Prop :=
  ∀ (nnn : Addr12) (s : State), ∃ t, Completes (.ldI nnn) s t ∧ t.I.toNat = nnn.toNat ∧ t.pc = s.pc + 2 ∧
    UnchangedBut [.I, .pc] s t

/-- R222 (the spec's decision D12): `LD F, Vx`: the font base plus five times Vx, unmasked. -/
def Obligations.LdFPointsAtTheGlyph : Prop :=
  ∀ (x : Reg) (s : State), ∃ t, Completes (.ldF x) s t ∧ t.I.toNat = s.cfg.fontBase.toNat + (s.V[x]).toNat * 5 ∧
    t.pc = s.pc + 2 ∧ UnchangedBut [.I, .pc] s t

/-- R221 (the spec's decision D11): `ADD I, Vx`: I in 16 bits; VF is 1 exactly when the unreduced sum is 0x1000 or more. -/
def Obligations.AddIndexWithFlag : Prop :=
  ∀ (x : Reg) (s : State), ∃ t, Completes (.addI x) s t ∧ t.I.toNat = (s.I.toNat + (s.V[x]).toNat) % 65536 ∧
    t.V[regVF] = (if s.I.toNat + (s.V[x]).toNat ≥ 0x1000 then 1 else 0) ∧ RegsBut regVF regVF s t ∧
    t.pc = s.pc + 2 ∧ UnchangedBut [.I, .V, .pc] s t

/-- R223 (the spec's decision D34: I is unchanged): `LD B, Vx` in range stores hundreds, tens and ones at I, I+1, I+2, and no other byte. -/
def Obligations.LdBStoresDecimalDigits : Prop :=
  ∀ (x : Reg) (s : State), s.mem.wf s.cfg = true → s.I.toNat + 2 ≤ 0xFFF → ∃ t, Completes (.ldB x) s t ∧
    (t.readByte s.I.toNat).toNat = (s.V[x]).toNat / 100 ∧ (t.readByte (s.I.toNat + 1)).toNat = (s.V[x]).toNat / 10 % 10 ∧
    (t.readByte (s.I.toNat + 2)).toNat = (s.V[x]).toNat % 10 ∧
    (∀ a, a < s.I.toNat ∨ s.I.toNat + 2 < a → t.readByte a = s.readByte a) ∧
    t.pc = s.pc + 2 ∧ UnchangedBut [.mem, .pc] s t

/-- R224 (the spec's decision D5): `LD [I], Vx` in range stores V0 to Vx at I upward, and no other byte; I moves by x + 1 only when
`LOADSTORE_INCREMENT_I`. -/
def Obligations.StoreRegsWritesV0ToVx : Prop :=
  ∀ (x : Reg) (s : State), s.mem.wf s.cfg = true → s.I.toNat + x.val ≤ 0xFFF → ∃ t, Completes (.storeRegs x) s t ∧
    (∀ r : Reg, r ≤ x → t.readByte (s.I.toNat + r.val) = s.V[r]) ∧
    (∀ a, a < s.I.toNat ∨ s.I.toNat + x.val < a → t.readByte a = s.readByte a) ∧
    t.I.toNat = (if s.cfg.loadStoreIncrementI then s.I.toNat + x.val + 1 else s.I.toNat) ∧
    t.pc = s.pc + 2 ∧ UnchangedBut [.mem, .I, .pc] s t

/-- R225 (the spec's decision D5): `LD Vx, [I]` in range loads V0 to Vx from I upward, and no other register; I as in R224. -/
def Obligations.LoadRegsReadsV0ToVx : Prop :=
  ∀ (x : Reg) (s : State), s.I.toNat + x.val ≤ 0xFFF → ∃ t, Completes (.loadRegs x) s t ∧
    (∀ r : Reg, r ≤ x → t.V[r] = s.readByte (s.I.toNat + r.val)) ∧ (∀ r : Reg, x < r → t.V[r] = s.V[r]) ∧
    t.I.toNat = (if s.cfg.loadStoreIncrementI then s.I.toNat + x.val + 1 else s.I.toNat) ∧
    t.pc = s.pc + 2 ∧ UnchangedBut [.V, .I, .pc] s t

/-- R80 (the spec's decisions D8, D37): when a byte of the access lies at 0x1000 or more, `LD B`, `LD [I]`, `LD Vx, [I]` and `DRW` raise `MemoryOutOfRange` with
the first such address, and write nothing. -/
def Obligations.AccessPastTopRaisesMemoryOutOfRange : Prop :=
  ∀ (x y : Reg) (n : Nibble) (s : State) (bad : Word), bad = (if s.I.toNat ≥ 0x1000 then s.I else 0x1000) →
    ∀ p ∈ [(Instr.ldB x, 3), (.storeRegs x, x.val + 1), (.loadRegs x, x.val + 1), (.drw x y n, n.toNat)],
      0 < p.2 → 0xFFF < s.I.toNat + p.2 - 1 → ∃ t, Completes p.1 s t ∧ Raised p.1 .memoryOutOfRange (some bad) s t

/-- R224, R225, R83: registers stored by `LD [I], Vx` come back with `LD Vx, [I]` at the same I, whatever the registers hold then. -/
def Obligations.StoredRegistersLoadBack : Prop :=
  ∀ (x : Reg) (s t u : State), s.mem.wf s.cfg = true → s.I.toNat + x.val ≤ 0xFFF → Completes (.storeRegs x) s t →
    u.mem = t.mem → u.cfg = t.cfg → u.I = s.I → ∃ v, Completes (.loadRegs x) u v ∧ ∀ r : Reg, r ≤ x → v.V[r] = s.V[r]

/-- R70, R86 (the spec's decision D29), R358: a fetch sees every earlier store: two bytes stored at `pc` are the next instruction, high byte first. -/
def Obligations.FetchSeesStoredBytes : Prop :=
  ∀ (s : State) (hi lo : Byte), s.mem.wf s.cfg = true → s.pc.toNat ≤ 0xFFE →
    cpuTick (s.writeBytes s.pc.toNat [hi, lo]) = exec (decodeWord (wordOfBytes hi lo)) (s.writeBytes s.pc.toNat [hi, lo])

/-! ## Display -/

/-- R251, R256: `CLS` turns every pixel off; VF is not written. -/
def Obligations.ClsTurnsEveryPixelOff : Prop :=
  ∀ s : State, ∃ t, Completes .cls s t ∧ (∀ px py, pixelAt t.FB px py = false) ∧ t.pc = s.pc + 2 ∧ UnchangedBut [.FB, .pc] s t

/-- R253, R254, R257 (the spec's decisions D4, D17, D18, D37): `DRW` in range flips exactly the pixels that the sprite draws, from the coordinates before the instruction;
VF is 1 exactly when one of them was on. -/
def Obligations.DrwFlipsTheDrawnPixels : Prop :=
  ∀ (x y : Reg) (n : Nibble) (s : State) (rows : List Byte), n.toNat = 0 ∨ s.I.toNat + n.toNat - 1 ≤ 0xFFF →
    rows = (List.range n.toNat).map (fun r => s.readByte (s.I.toNat + r)) →
    ∃ t, Completes (.drw x y n) s t ∧
      (∀ px py, pixelAt t.FB px py = true ↔
        ¬(pixelAt s.FB px py = true ↔ Draws s.cfg.spriteWrap ((s.V[x]).toNat % 64) ((s.V[y]).toNat % 32) rows px py)) ∧
      (t.V[regVF] = 1 ↔ ∃ px py, pixelAt s.FB px py = true ∧
        Draws s.cfg.spriteWrap ((s.V[x]).toNat % 64) ((s.V[y]).toNat % 32) rows px py) ∧
      (t.V[regVF] = 0 ∨ t.V[regVF] = 1) ∧ RegsBut regVF regVF s t ∧ t.pc = s.pc + 2 ∧ UnchangedBut [.FB, .V, .pc] s t

/-- R258 (derived in the spec): a sprite blitted twice at the same place restores the framebuffer; over an all-off framebuffer the first blit does not
collide, and the second does exactly when the sprite draws a pixel. -/
def Obligations.BlitTwiceRestoresTheFramebuffer : Prop :=
  ∀ (wrap : Bool) (x0 y0 : Nat) (rows : List Byte) (fb : Framebuffer), x0 < 64 → y0 < 32 → rows.length ≤ 15 →
    (blit wrap x0 y0 rows (blit wrap x0 y0 rows fb).1).1 = fb ∧
    (blit wrap x0 y0 rows Framebuffer.allOff).2 = false ∧
    ((blit wrap x0 y0 rows (blit wrap x0 y0 rows Framebuffer.allOff).1).2 = true ↔
      ∃ px py, Draws wrap x0 y0 rows px py)

/-! ## Keypad and timers -/

/-- R280, R281 (the spec's decision D14): `SKP` and `SKNP` skip by the state of key Vx; a key number above 0xF raises `KeyOutOfRange`. -/
def Obligations.KeySkipsReadTheKeyOrRaise : Prop :=
  ∀ (x : Reg) (s : State),
    (∀ k : Key, (s.V[x]).toNat = k.val →
      (∃ t, Completes (.skp x) s t ∧ t.pc = (if s.KEY[k] then s.pc + 4 else s.pc + 2) ∧ UnchangedBut [.pc] s t) ∧
      (∃ t, Completes (.sknp x) s t ∧ t.pc = (if s.KEY[k] then s.pc + 2 else s.pc + 4) ∧ UnchangedBut [.pc] s t)) ∧
    (0xF < (s.V[x]).toNat → ∀ i ∈ [Instr.skp x, .sknp x],
      ∃ t info, Completes i s t ∧ info.toNat = (s.V[x]).toNat ∧ Raised i .keyOutOfRange (some info) s t)

/-- R282, R284, R285: the timer transfers. -/
def Obligations.TimerTransfers : Prop :=
  ∀ (x : Reg) (s : State),
    (∃ t, Completes (.ldVxDT x) s t ∧ t.V[x] = s.DT ∧ RegsBut x x s t ∧ t.pc = s.pc + 2 ∧ UnchangedBut [.V, .pc] s t) ∧
    (∃ t, Completes (.ldDT x) s t ∧ t.DT = s.V[x] ∧ t.pc = s.pc + 2 ∧ UnchangedBut [.DT, .pc] s t) ∧
    (∃ t, Completes (.ldST x) s t ∧ t.ST = s.V[x] ∧ t.pc = s.pc + 2 ∧ UnchangedBut [.ST, .pc] s t)

/-- R283 (the spec's decision D15): with a key pressed, `LD Vx, K` stores the number of a pressed key; when it is the only one,
that key. Which of several is a free value (assumption 5). -/
def Obligations.KeyWaitStoresAPressedKey : Prop :=
  ∀ (x : Reg) (s : State) (p : Key), s.KEY[p] = true → ∃ t, ∃ k : Key, Completes (.ldVxK x) s t ∧ s.KEY[k] = true ∧
    (t.V[x]).toNat = k.val ∧ ((∀ q : Key, s.KEY[q] = true → q = p) → k = p) ∧ RegsBut x x s t ∧ t.pc = s.pc + 2 ∧
    t.host.rndIn = s.host.rndIn ∧ t.host.rndCount = s.host.rndCount ∧ UnchangedBut [.V, .pc, .draws] s t

/-- R283: with no key pressed, `LD Vx, K` writes nothing at all. -/
def Obligations.KeyWaitWithoutKeyChangesNothing : Prop :=
  ∀ (x : Reg) (s : State), (∀ k : Key, s.KEY[k] = false) → exec (.ldVxK x) s = .next s

/-! ## Scheduler, timers and host -/

/-- R330: a timer tick decrements both timers, each stopping at 0, and changes nothing else. -/
def Obligations.TimerTickDecrementsBothTimers : Prop :=
  ∀ s : State, (timerTick s).DT.toNat = s.DT.toNat - 1 ∧ (timerTick s).ST.toNat = s.ST.toNat - 1 ∧
    UnchangedBut [.DT, .ST] s (timerTick s)

/-- R327 (derived in the spec): after N timer ticks, DT is max(0, D - N), and ST likewise. -/
def Obligations.TimerDecaysToZero : Prop :=
  ∀ (n : Nat) (s : State), (timerTicks n s).DT.toNat = s.DT.toNat - n ∧ (timerTicks n s).ST.toNat = s.ST.toNat - n

/-- R322, R324, R325, R330, R332 (the spec's decisions D22, D23, D32; that the two ticks are one step is assumption 21): the end of a
pass adds its elapsed time; when a 1/60 s boundary is reached there is one timer tick and then
one frame, a copy of the framebuffer, and the surplus is kept; otherwise the timers stand and no frame is handed over. Nothing else
changes. -/
def Obligations.PassEndTakesAtMostOneTimerAndFrameTick : Prop :=
  ∀ (e : Nat) (s : State),
    (endPass e s).pass = none ∧ (endPass e s).cpuAcc = s.cpuAcc ∧ (endPass e s).running = s.running ∧
    (endPass e s).host.script = s.host.script ∧ UnchangedBut [.DT, .ST, .sched, .hostLog] s (endPass e s) ∧
    (s.tmrAcc + e < s.cfg.cpuHz → (endPass e s).tmrAcc = s.tmrAcc + e ∧ (endPass e s).DT = s.DT ∧ (endPass e s).ST = s.ST ∧
      (endPass e s).host.out = s.host.out) ∧
    (s.cfg.cpuHz ≤ s.tmrAcc + e → (endPass e s).tmrAcc + s.cfg.cpuHz = s.tmrAcc + e ∧
      (endPass e s).DT.toNat = s.DT.toNat - 1 ∧ (endPass e s).ST.toNat = s.ST.toNat - 1 ∧
      (endPass e s).host.out = s.host.out ++ [.frame s.FB])

/-- R322, R323 (derived in the spec): a pass of a running core runs floor((cpu_acc + e) / 60) CPU ticks, all before its end, and leaves the
remainder in `cpu_acc`. -/
def Obligations.PassRunsTheOwedCpuTicks : Prop :=
  ∀ (e : Nat) (s : State), s.running = true → s.pass = none →
    schedulerPass e s = onNext (cpuTicks ((s.cpuAcc + e) / 60) (beginPass e s)) (endPass e) ∧
    ∃ t, schedulerPass e s = .next t ∧ t.cpuAcc = (s.cpuAcc + e) % 60 ∧ t.pass = none ∧ t.running = true

/-- R326, R343 (the spec's decision D24): a stopped core stays stopped, and no tick runs, until the host loads or resets: no element that an instruction or a
tick writes changes, no frame is handed over and nothing is drawn. -/
def Obligations.StoppedCoreRunsNoTick : Prop :=
  ∀ s t : State, s.running = false → step s = .next t → s.host.script.head? ≠ some .reset →
    (∀ rom, s.host.script.head? ≠ some (.load rom)) → t.running = false ∧ SameCore s t ∧ t.host.out = s.host.out ∧
      t.host.rndCount = s.host.rndCount ∧ t.host.keyCount = s.host.keyCount

/-- R326, R340, R341 (the spec's decisions D24, D25; the script is the model's, assumption 6): a host action takes effect between ticks: `stop` clears `running`, and `set_key` sets one key; neither
changes anything else. A pass in progress is left as it is by a `stop` until its next tick (assumption 8). -/
def Obligations.StopAndSetKeyTakeEffect : Prop :=
  ∀ (s : State) (rest : List HostAction) (k : Key) (b : Bool),
    (s.host.script = .stop :: rest → ∃ t, step s = .next t ∧ t.running = false ∧ t.host.script = rest ∧ t.host.out = s.host.out ∧
      t.cpuAcc = s.cpuAcc ∧ t.tmrAcc = s.tmrAcc ∧ t.pass = s.pass ∧ UnchangedBut [.sched, .hostLog] s t) ∧
    (s.host.script = .setKey k b :: rest → ∃ t, step s = .next t ∧ t.KEY[k] = b ∧ (∀ q : Key, q ≠ k → t.KEY[q] = s.KEY[q]) ∧
      t.host.script = rest ∧ t.host.out = s.host.out ∧ UnchangedBut [.KEY, .hostLog] s t)

/-- R322, R340 (the spec's decision D25; the script is the model's, assumption 6): `pass(e)` of a running core between passes adds `e` to
`cpu_acc` and begins the pass; of a stopped core it does nothing; inside a pass it is held while the pass takes its next tick. A byte
for the random source is queued behind those already there (assumption 4). Nothing else changes. -/
def Obligations.PassAndRandomActionsTakeEffect : Prop :=
  ∀ (s : State) (rest : List HostAction) (e : Nat) (b : Byte),
    (s.host.script = .pass e :: rest → s.pass = none → s.running = true → ∃ t, step s = .next t ∧ t.pass = some e ∧
      t.cpuAcc = s.cpuAcc + e ∧ t.tmrAcc = s.tmrAcc ∧ t.running = true ∧ t.host.script = rest ∧ t.host.out = s.host.out ∧
      UnchangedBut [.sched, .hostLog] s t) ∧
    (s.host.script = .pass e :: rest → s.pass = none → s.running = false → ∃ t, step s = .next t ∧ t.host.script = rest ∧
      t.host.out = s.host.out ∧ UnchangedBut [.hostLog] s t) ∧
    (s.host.script = .pass e :: rest → s.pass ≠ none → step s = passTick s ∧ ∀ t, step s = .next t → t.host.script = .pass e :: rest) ∧
    (s.host.script = .random b :: rest → ∃ t, step s = .next t ∧ t.host.rndIn = s.host.rndIn ++ [b] ∧
      t.host.rndCount = s.host.rndCount ∧ t.host.keyCount = s.host.keyCount ∧ t.host.script = rest ∧ t.host.out = s.host.out ∧
      UnchangedBut [.draws, .hostLog] s t)

/-- R340, R350 to R352 (the spec's decisions D19, D20, D25; the script and the record of answers are the model's, assumptions 6 and 7): the
host actions `load(rom)` and `reset()` leave the core as the operation does and hand the host its answer; the keypad, the draws and
the pass in progress (assumption 8) are left alone. -/
def Obligations.LoadAndResetActionsAnswerTheHost : Prop :=
  ∀ (s : State) (rest : List HostAction) (a : HostAction) (r : LoadReply × State),
    ((∃ rom, a = .load rom ∧ r = load rom s) ∨ (a = .reset ∧ r = resetCore s)) → s.host.script = a :: rest →
    ∃ t, step s = .next t ∧ SameCore r.2 t ∧ t.host.out = s.host.out ++ [.reply r.1] ∧ t.host.script = rest ∧ t.pass = s.pass ∧
      t.KEY = s.KEY ∧ t.cfg = s.cfg ∧ Elem.same s t .draws

/-- R47, R350, R353 (the spec's decisions D12, D19, D20): a ROM of legal size, under a configuration inside its domain, is loaded with the whole initialisation. -/
def Obligations.LoadEstablishesTheResetState : Prop :=
  ∀ (rom : List Byte) (s : State), rom.length ≤ 3584 → s.cfg.ok = true → ∃ t, load rom s = (.success, t) ∧
    (∀ k, k < rom.length → t.readByte (0x200 + k) = rom.getD k 0) ∧
    (∀ k, k < 80 → t.readByte (s.cfg.fontBase.toNat + k) = s.cfg.font.getD k 0) ∧
    (∀ a, a < 0x1000 → (a < s.cfg.fontBase.toNat ∨ s.cfg.fontBase.toNat + 80 ≤ a) → (a < 0x200 ∨ 0x200 + rom.length ≤ a) →
      t.readByte a = 0) ∧
    (∀ r : Reg, t.V[r] = 0) ∧ t.I = 0 ∧ t.pc = 0x200 ∧ t.S = [] ∧ t.DT = 0 ∧ t.ST = 0 ∧
    (∀ px py, pixelAt t.FB px py = false) ∧ t.KEY = s.KEY ∧ t.errors = [] ∧ t.cpuAcc = 0 ∧ t.tmrAcc = 0 ∧
    t.rom = some rom ∧ t.running = true ∧ t.cfg = s.cfg

/-- R351, R352, R303 (the spec's decisions D19, D20; the order of the checks is the model's, assumption 11): a load that is refused
changes no state and says why. -/
def Obligations.RefusedLoadChangesNothing : Prop :=
  ∀ (rom : List Byte) (s : State),
    (3584 < rom.length → load rom s = (.error .oversize, s)) ∧
    (rom.length ≤ 3584 → s.cfg.ok = false → load rom s = (.error .badConfig, s)) ∧
    (s.rom = none → resetCore s = (.error .noRom, s)) ∧
    (∀ stored, s.rom = some stored → s.cfg.ok = false → resetCore s = (.error .badConfig, s))

/-- R45(c), R345, R355 (the script is the model's, assumption 6): a step whose host action is neither `load` nor `reset` keeps the stored
ROM and the configuration, which are all that `reset` starts from, and puts no action into the host's script. -/
def Obligations.StepKeepsWhatResetStartsFrom : Prop :=
  ∀ s t : State, step s = .next t → s.host.script.head? ≠ some .reset → (∀ rom, s.host.script.head? ≠ some (.load rom)) →
    t.rom = s.rom ∧ t.cfg = s.cfg ∧ t.host.script <:+ s.host.script

/-- R355 (derived in the spec): `reset` after `load` and any number of steps in which the host neither loads nor resets gives the state right after the
`load` in every element but the keypad. -/
def Obligations.ResetRestoresTheLoadedState : Prop :=
  ∀ (rom : List Byte) (s loaded : State), load rom s = (.success, loaded) →
    ∀ (n : Nat) (t : State), Host.Core.run Sys2Proof.core n loaded = .next t →
      (∀ a ∈ loaded.host.script, a ≠ .reset ∧ ∀ r, a ≠ .load r) →
      ∃ u, resetCore t = (.success, u) ∧ SameCore loaded u ∧ u.KEY = t.KEY

/-- R47, R350, R353 (the spec's decision D20): the reset state of the model is the state that loading the empty ROM establishes from
power-on (the empty ROM and the released keypad are the model's choice, assumption 3). R352 (D19): `reset` from power-on answers
`noRom`. -/
def Obligations.ResetStateIsTheLoadedEmptyRom : Prop :=
  load [] State.powerOn = (.success, State.reset) ∧ (resetCore State.powerOn).1 = .error .noRom
end

