-- ==== Sys2Proof/Laws/Decode.lean ====
section
/-!
SUPPORT. Laws/Decode.lean: the fields of a word and the forms of the encoder as numbers, and the fields of each form.
-/

namespace Sys2Proof

/-! ## Fields and forms as numbers (R101, R103) -/

theorem fieldFamily_toNat (w : Word) : (fieldFamily w).toNat = w.toNat / 4096 := by
  have := w.isLt
  simp only [fieldFamily, BitVec.extractLsb'_toNat, Nat.shiftRight_eq_div_pow]
  omega

theorem fieldX_val (w : Word) : (fieldX w).val = w.toNat / 256 % 16 := by
  change (w.extractLsb' 8 4).toNat = _
  simp only [BitVec.extractLsb'_toNat, Nat.shiftRight_eq_div_pow]

theorem fieldY_val (w : Word) : (fieldY w).val = w.toNat / 16 % 16 := by
  change (w.extractLsb' 4 4).toNat = _
  simp only [BitVec.extractLsb'_toNat, Nat.shiftRight_eq_div_pow]

theorem fieldN_toNat (w : Word) : (fieldN w).toNat = w.toNat % 16 := by
  simp only [fieldN, BitVec.extractLsb'_toNat, Nat.shiftRight_eq_div_pow]
  omega

theorem fieldKK_toNat (w : Word) : (fieldKK w).toNat = w.toNat % 256 := by
  simp only [fieldKK, BitVec.extractLsb'_toNat, Nat.shiftRight_eq_div_pow]
  omega

theorem fieldNNN_toNat (w : Word) : (fieldNNN w).toNat = w.toNat % 4096 := by
  simp only [fieldNNN, BitVec.extractLsb'_toNat, Nat.shiftRight_eq_div_pow]
  omega

theorem append_toNat {m n : Nat} (a : BitVec m) (b : BitVec n) : (a ++ b).toNat = a.toNat * 2 ^ n + b.toNat := by
  rw [BitVec.toNat_append, ← Nat.shiftLeft_add_eq_or_of_lt b.isLt, Nat.shiftLeft_eq]

@[simp] theorem regBits_toNat (r : Reg) : (regBits r).toNat = r.val := rfl

theorem formA_toNat (f : BitVec 4) (nnn : Addr12) : (formA f nnn).toNat = f.toNat * 4096 + nnn.toNat := append_toNat f nnn

theorem formXKK_toNat (f : BitVec 4) (x : Reg) (kk : Byte) :
    (formXKK f x kk).toNat = f.toNat * 4096 + x.val * 256 + kk.toNat := by
  have h : (formXKK f x kk).toNat = (f ++ regBits x).toNat * 256 + kk.toNat := append_toNat (f ++ regBits x) kk
  have h2 : (f ++ regBits x).toNat = f.toNat * 16 + x.val := append_toNat f (regBits x)
  rw [h, h2]
  ring

theorem formXYN_toNat (f : BitVec 4) (x y : Reg) (n : Nibble) :
    (formXYN f x y n).toNat = f.toNat * 4096 + x.val * 256 + y.val * 16 + n.toNat := by
  have h : (formXYN f x y n).toNat = (f ++ regBits x ++ regBits y).toNat * 16 + n.toNat :=
    append_toNat (f ++ regBits x ++ regBits y) n
  have h2 : (f ++ regBits x ++ regBits y).toNat = (f ++ regBits x).toNat * 16 + y.val :=
    append_toNat (f ++ regBits x) (regBits y)
  have h3 : (f ++ regBits x).toNat = f.toNat * 16 + x.val := append_toNat f (regBits x)
  rw [h, h2, h3]
  ring

theorem wordOfBytes_toNat (hi lo : Byte) : (wordOfBytes hi lo).toNat = hi.toNat * 256 + lo.toNat := append_toNat hi lo

theorem highByte_toNat (w : Word) : (highByte w).toNat = w.toNat / 256 := by
  have := w.isLt
  simp only [highByte, BitVec.extractLsb'_toNat, Nat.shiftRight_eq_div_pow]
  omega

theorem lowByte_toNat (w : Word) : (lowByte w).toNat = w.toNat % 256 := by
  simp only [lowByte, BitVec.extractLsb'_toNat, Nat.shiftRight_eq_div_pow]
  omega

/-- A word is its two bytes (R70, R100). -/
@[simp] theorem wordOfBytes_high_low (w : Word) : wordOfBytes (highByte w) (lowByte w) = w := by
  apply BitVec.eq_of_toNat_eq
  rw [wordOfBytes_toNat, highByte_toNat, lowByte_toNat]
  omega

/-! ## The fields of each form -/

variable (f : BitVec 4) (x y : Reg) (kk : Byte) (n : Nibble) (nnn : Addr12)

@[simp] theorem fieldFamily_formA : fieldFamily (formA f nnn) = f := by
  apply BitVec.eq_of_toNat_eq
  rw [fieldFamily_toNat, formA_toNat]
  omega

@[simp] theorem fieldNNN_formA : fieldNNN (formA f nnn) = nnn := by
  apply BitVec.eq_of_toNat_eq
  rw [fieldNNN_toNat, formA_toNat]
  omega

@[simp] theorem fieldFamily_formXKK : fieldFamily (formXKK f x kk) = f := by
  apply BitVec.eq_of_toNat_eq
  rw [fieldFamily_toNat, formXKK_toNat]
  omega

@[simp] theorem fieldX_formXKK : fieldX (formXKK f x kk) = x := by
  apply Fin.eq_of_val_eq
  rw [fieldX_val, formXKK_toNat]
  omega

@[simp] theorem fieldKK_formXKK : fieldKK (formXKK f x kk) = kk := by
  apply BitVec.eq_of_toNat_eq
  rw [fieldKK_toNat, formXKK_toNat]
  omega

@[simp] theorem fieldFamily_formXYN : fieldFamily (formXYN f x y n) = f := by
  apply BitVec.eq_of_toNat_eq
  rw [fieldFamily_toNat, formXYN_toNat]
  omega

@[simp] theorem fieldX_formXYN : fieldX (formXYN f x y n) = x := by
  apply Fin.eq_of_val_eq
  rw [fieldX_val, formXYN_toNat]
  omega

@[simp] theorem fieldY_formXYN : fieldY (formXYN f x y n) = y := by
  apply Fin.eq_of_val_eq
  rw [fieldY_val, formXYN_toNat]
  omega

@[simp] theorem fieldN_formXYN : fieldN (formXYN f x y n) = n := by
  apply BitVec.eq_of_toNat_eq
  rw [fieldN_toNat, formXYN_toNat]
  omega

/-! ## The masks of the opcode table -/

/-- A bit of two fields side by side. -/
theorem append_bit {m n : Nat} (a : BitVec m) (b : BitVec n) (k : Nat) :
    (a ++ b).getLsbD k = if k < n then b.getLsbD k else a.getLsbD (k - n) := by
  rw [BitVec.getLsbD_append]

theorem and_mask_family (w : Word) : w &&& 0xF000#16 = fieldFamily w ++ 0#12 := by
  apply BitVec.eq_of_getLsbD_eq
  intro i hi
  rw [BitVec.getLsbD_and]
  erw [append_bit (fieldFamily w) 0#12]
  interval_cases i <;> simp [fieldFamily]

theorem and_mask_familyN (w : Word) : w &&& 0xF00F#16 = fieldFamily w ++ 0#8 ++ fieldN w := by
  apply BitVec.eq_of_getLsbD_eq
  intro i hi
  rw [BitVec.getLsbD_and]
  erw [append_bit (fieldFamily w ++ 0#8) (fieldN w)]
  rw [append_bit (fieldFamily w) 0#8]
  interval_cases i <;> simp [fieldFamily, fieldN]

theorem and_mask_familyKK (w : Word) : w &&& 0xF0FF#16 = fieldFamily w ++ 0#4 ++ fieldKK w := by
  apply BitVec.eq_of_getLsbD_eq
  intro i hi
  rw [BitVec.getLsbD_and]
  erw [append_bit (fieldFamily w ++ 0#4) (fieldKK w)]
  rw [append_bit (fieldFamily w) 0#4]
  interval_cases i <;> simp [fieldFamily, fieldKK]

end Sys2Proof
end

