-- ==== Sys2Proof/Laws/State.lean ====
section
/-!
SUPPORT. Laws/State.lean: one lemma per field per update, so that no proof unfolds a record update.
-/

namespace Sys2Proof.Machine

variable (s : State)

@[simp] theorem State.setV_cfg (x : Reg) (v : Byte) : (s.setV x v).cfg = s.cfg := rfl
@[simp] theorem State.setV_mem (x : Reg) (v : Byte) : (s.setV x v).mem = s.mem := rfl
@[simp] theorem State.setV_V (x : Reg) (v : Byte) : (s.setV x v).V = s.V.set x v := rfl
@[simp] theorem State.setV_I (x : Reg) (v : Byte) : (s.setV x v).I = s.I := rfl
@[simp] theorem State.setV_pc (x : Reg) (v : Byte) : (s.setV x v).pc = s.pc := rfl
@[simp] theorem State.setV_S (x : Reg) (v : Byte) : (s.setV x v).S = s.S := rfl
@[simp] theorem State.setV_DT (x : Reg) (v : Byte) : (s.setV x v).DT = s.DT := rfl
@[simp] theorem State.setV_ST (x : Reg) (v : Byte) : (s.setV x v).ST = s.ST := rfl
@[simp] theorem State.setV_FB (x : Reg) (v : Byte) : (s.setV x v).FB = s.FB := rfl
@[simp] theorem State.setV_KEY (x : Reg) (v : Byte) : (s.setV x v).KEY = s.KEY := rfl
@[simp] theorem State.setV_errors (x : Reg) (v : Byte) : (s.setV x v).errors = s.errors := rfl
@[simp] theorem State.setV_cpuAcc (x : Reg) (v : Byte) : (s.setV x v).cpuAcc = s.cpuAcc := rfl
@[simp] theorem State.setV_tmrAcc (x : Reg) (v : Byte) : (s.setV x v).tmrAcc = s.tmrAcc := rfl
@[simp] theorem State.setV_rom (x : Reg) (v : Byte) : (s.setV x v).rom = s.rom := rfl
@[simp] theorem State.setV_running (x : Reg) (v : Byte) : (s.setV x v).running = s.running := rfl
@[simp] theorem State.setV_pass (x : Reg) (v : Byte) : (s.setV x v).pass = s.pass := rfl
@[simp] theorem State.setV_host (x : Reg) (v : Byte) : (s.setV x v).host = s.host := rfl

@[simp] theorem State.setRegs_cfg (r : Vector Byte 16) : (s.setRegs r).cfg = s.cfg := rfl
@[simp] theorem State.setRegs_mem (r : Vector Byte 16) : (s.setRegs r).mem = s.mem := rfl
@[simp] theorem State.setRegs_V (r : Vector Byte 16) : (s.setRegs r).V = r := rfl
@[simp] theorem State.setRegs_I (r : Vector Byte 16) : (s.setRegs r).I = s.I := rfl
@[simp] theorem State.setRegs_pc (r : Vector Byte 16) : (s.setRegs r).pc = s.pc := rfl
@[simp] theorem State.setRegs_S (r : Vector Byte 16) : (s.setRegs r).S = s.S := rfl
@[simp] theorem State.setRegs_DT (r : Vector Byte 16) : (s.setRegs r).DT = s.DT := rfl
@[simp] theorem State.setRegs_ST (r : Vector Byte 16) : (s.setRegs r).ST = s.ST := rfl
@[simp] theorem State.setRegs_FB (r : Vector Byte 16) : (s.setRegs r).FB = s.FB := rfl
@[simp] theorem State.setRegs_KEY (r : Vector Byte 16) : (s.setRegs r).KEY = s.KEY := rfl
@[simp] theorem State.setRegs_errors (r : Vector Byte 16) : (s.setRegs r).errors = s.errors := rfl
@[simp] theorem State.setRegs_cpuAcc (r : Vector Byte 16) : (s.setRegs r).cpuAcc = s.cpuAcc := rfl
@[simp] theorem State.setRegs_tmrAcc (r : Vector Byte 16) : (s.setRegs r).tmrAcc = s.tmrAcc := rfl
@[simp] theorem State.setRegs_rom (r : Vector Byte 16) : (s.setRegs r).rom = s.rom := rfl
@[simp] theorem State.setRegs_running (r : Vector Byte 16) : (s.setRegs r).running = s.running := rfl
@[simp] theorem State.setRegs_pass (r : Vector Byte 16) : (s.setRegs r).pass = s.pass := rfl
@[simp] theorem State.setRegs_host (r : Vector Byte 16) : (s.setRegs r).host = s.host := rfl

@[simp] theorem State.setI_cfg (v : Word) : (s.setI v).cfg = s.cfg := rfl
@[simp] theorem State.setI_mem (v : Word) : (s.setI v).mem = s.mem := rfl
@[simp] theorem State.setI_V (v : Word) : (s.setI v).V = s.V := rfl
@[simp] theorem State.setI_I (v : Word) : (s.setI v).I = v := rfl
@[simp] theorem State.setI_pc (v : Word) : (s.setI v).pc = s.pc := rfl
@[simp] theorem State.setI_S (v : Word) : (s.setI v).S = s.S := rfl
@[simp] theorem State.setI_DT (v : Word) : (s.setI v).DT = s.DT := rfl
@[simp] theorem State.setI_ST (v : Word) : (s.setI v).ST = s.ST := rfl
@[simp] theorem State.setI_FB (v : Word) : (s.setI v).FB = s.FB := rfl
@[simp] theorem State.setI_KEY (v : Word) : (s.setI v).KEY = s.KEY := rfl
@[simp] theorem State.setI_errors (v : Word) : (s.setI v).errors = s.errors := rfl
@[simp] theorem State.setI_cpuAcc (v : Word) : (s.setI v).cpuAcc = s.cpuAcc := rfl
@[simp] theorem State.setI_tmrAcc (v : Word) : (s.setI v).tmrAcc = s.tmrAcc := rfl
@[simp] theorem State.setI_rom (v : Word) : (s.setI v).rom = s.rom := rfl
@[simp] theorem State.setI_running (v : Word) : (s.setI v).running = s.running := rfl
@[simp] theorem State.setI_pass (v : Word) : (s.setI v).pass = s.pass := rfl
@[simp] theorem State.setI_host (v : Word) : (s.setI v).host = s.host := rfl

@[simp] theorem State.setPc_cfg (v : Word) : (s.setPc v).cfg = s.cfg := rfl
@[simp] theorem State.setPc_mem (v : Word) : (s.setPc v).mem = s.mem := rfl
@[simp] theorem State.setPc_V (v : Word) : (s.setPc v).V = s.V := rfl
@[simp] theorem State.setPc_I (v : Word) : (s.setPc v).I = s.I := rfl
@[simp] theorem State.setPc_pc (v : Word) : (s.setPc v).pc = v := rfl
@[simp] theorem State.setPc_S (v : Word) : (s.setPc v).S = s.S := rfl
@[simp] theorem State.setPc_DT (v : Word) : (s.setPc v).DT = s.DT := rfl
@[simp] theorem State.setPc_ST (v : Word) : (s.setPc v).ST = s.ST := rfl
@[simp] theorem State.setPc_FB (v : Word) : (s.setPc v).FB = s.FB := rfl
@[simp] theorem State.setPc_KEY (v : Word) : (s.setPc v).KEY = s.KEY := rfl
@[simp] theorem State.setPc_errors (v : Word) : (s.setPc v).errors = s.errors := rfl
@[simp] theorem State.setPc_cpuAcc (v : Word) : (s.setPc v).cpuAcc = s.cpuAcc := rfl
@[simp] theorem State.setPc_tmrAcc (v : Word) : (s.setPc v).tmrAcc = s.tmrAcc := rfl
@[simp] theorem State.setPc_rom (v : Word) : (s.setPc v).rom = s.rom := rfl
@[simp] theorem State.setPc_running (v : Word) : (s.setPc v).running = s.running := rfl
@[simp] theorem State.setPc_pass (v : Word) : (s.setPc v).pass = s.pass := rfl
@[simp] theorem State.setPc_host (v : Word) : (s.setPc v).host = s.host := rfl

@[simp] theorem State.setDT_cfg (v : Byte) : (s.setDT v).cfg = s.cfg := rfl
@[simp] theorem State.setDT_mem (v : Byte) : (s.setDT v).mem = s.mem := rfl
@[simp] theorem State.setDT_V (v : Byte) : (s.setDT v).V = s.V := rfl
@[simp] theorem State.setDT_I (v : Byte) : (s.setDT v).I = s.I := rfl
@[simp] theorem State.setDT_pc (v : Byte) : (s.setDT v).pc = s.pc := rfl
@[simp] theorem State.setDT_S (v : Byte) : (s.setDT v).S = s.S := rfl
@[simp] theorem State.setDT_DT (v : Byte) : (s.setDT v).DT = v := rfl
@[simp] theorem State.setDT_ST (v : Byte) : (s.setDT v).ST = s.ST := rfl
@[simp] theorem State.setDT_FB (v : Byte) : (s.setDT v).FB = s.FB := rfl
@[simp] theorem State.setDT_KEY (v : Byte) : (s.setDT v).KEY = s.KEY := rfl
@[simp] theorem State.setDT_errors (v : Byte) : (s.setDT v).errors = s.errors := rfl
@[simp] theorem State.setDT_cpuAcc (v : Byte) : (s.setDT v).cpuAcc = s.cpuAcc := rfl
@[simp] theorem State.setDT_tmrAcc (v : Byte) : (s.setDT v).tmrAcc = s.tmrAcc := rfl
@[simp] theorem State.setDT_rom (v : Byte) : (s.setDT v).rom = s.rom := rfl
@[simp] theorem State.setDT_running (v : Byte) : (s.setDT v).running = s.running := rfl
@[simp] theorem State.setDT_pass (v : Byte) : (s.setDT v).pass = s.pass := rfl
@[simp] theorem State.setDT_host (v : Byte) : (s.setDT v).host = s.host := rfl

@[simp] theorem State.setST_cfg (v : Byte) : (s.setST v).cfg = s.cfg := rfl
@[simp] theorem State.setST_mem (v : Byte) : (s.setST v).mem = s.mem := rfl
@[simp] theorem State.setST_V (v : Byte) : (s.setST v).V = s.V := rfl
@[simp] theorem State.setST_I (v : Byte) : (s.setST v).I = s.I := rfl
@[simp] theorem State.setST_pc (v : Byte) : (s.setST v).pc = s.pc := rfl
@[simp] theorem State.setST_S (v : Byte) : (s.setST v).S = s.S := rfl
@[simp] theorem State.setST_DT (v : Byte) : (s.setST v).DT = s.DT := rfl
@[simp] theorem State.setST_ST (v : Byte) : (s.setST v).ST = v := rfl
@[simp] theorem State.setST_FB (v : Byte) : (s.setST v).FB = s.FB := rfl
@[simp] theorem State.setST_KEY (v : Byte) : (s.setST v).KEY = s.KEY := rfl
@[simp] theorem State.setST_errors (v : Byte) : (s.setST v).errors = s.errors := rfl
@[simp] theorem State.setST_cpuAcc (v : Byte) : (s.setST v).cpuAcc = s.cpuAcc := rfl
@[simp] theorem State.setST_tmrAcc (v : Byte) : (s.setST v).tmrAcc = s.tmrAcc := rfl
@[simp] theorem State.setST_rom (v : Byte) : (s.setST v).rom = s.rom := rfl
@[simp] theorem State.setST_running (v : Byte) : (s.setST v).running = s.running := rfl
@[simp] theorem State.setST_pass (v : Byte) : (s.setST v).pass = s.pass := rfl
@[simp] theorem State.setST_host (v : Byte) : (s.setST v).host = s.host := rfl

@[simp] theorem State.setS_cfg (l : List Word) : (s.setS l).cfg = s.cfg := rfl
@[simp] theorem State.setS_mem (l : List Word) : (s.setS l).mem = s.mem := rfl
@[simp] theorem State.setS_V (l : List Word) : (s.setS l).V = s.V := rfl
@[simp] theorem State.setS_I (l : List Word) : (s.setS l).I = s.I := rfl
@[simp] theorem State.setS_pc (l : List Word) : (s.setS l).pc = s.pc := rfl
@[simp] theorem State.setS_S (l : List Word) : (s.setS l).S = l := rfl
@[simp] theorem State.setS_DT (l : List Word) : (s.setS l).DT = s.DT := rfl
@[simp] theorem State.setS_ST (l : List Word) : (s.setS l).ST = s.ST := rfl
@[simp] theorem State.setS_FB (l : List Word) : (s.setS l).FB = s.FB := rfl
@[simp] theorem State.setS_KEY (l : List Word) : (s.setS l).KEY = s.KEY := rfl
@[simp] theorem State.setS_errors (l : List Word) : (s.setS l).errors = s.errors := rfl
@[simp] theorem State.setS_cpuAcc (l : List Word) : (s.setS l).cpuAcc = s.cpuAcc := rfl
@[simp] theorem State.setS_tmrAcc (l : List Word) : (s.setS l).tmrAcc = s.tmrAcc := rfl
@[simp] theorem State.setS_rom (l : List Word) : (s.setS l).rom = s.rom := rfl
@[simp] theorem State.setS_running (l : List Word) : (s.setS l).running = s.running := rfl
@[simp] theorem State.setS_pass (l : List Word) : (s.setS l).pass = s.pass := rfl
@[simp] theorem State.setS_host (l : List Word) : (s.setS l).host = s.host := rfl

@[simp] theorem State.setFB_cfg (fb : Framebuffer) : (s.setFB fb).cfg = s.cfg := rfl
@[simp] theorem State.setFB_mem (fb : Framebuffer) : (s.setFB fb).mem = s.mem := rfl
@[simp] theorem State.setFB_V (fb : Framebuffer) : (s.setFB fb).V = s.V := rfl
@[simp] theorem State.setFB_I (fb : Framebuffer) : (s.setFB fb).I = s.I := rfl
@[simp] theorem State.setFB_pc (fb : Framebuffer) : (s.setFB fb).pc = s.pc := rfl
@[simp] theorem State.setFB_S (fb : Framebuffer) : (s.setFB fb).S = s.S := rfl
@[simp] theorem State.setFB_DT (fb : Framebuffer) : (s.setFB fb).DT = s.DT := rfl
@[simp] theorem State.setFB_ST (fb : Framebuffer) : (s.setFB fb).ST = s.ST := rfl
@[simp] theorem State.setFB_FB (fb : Framebuffer) : (s.setFB fb).FB = fb := rfl
@[simp] theorem State.setFB_KEY (fb : Framebuffer) : (s.setFB fb).KEY = s.KEY := rfl
@[simp] theorem State.setFB_errors (fb : Framebuffer) : (s.setFB fb).errors = s.errors := rfl
@[simp] theorem State.setFB_cpuAcc (fb : Framebuffer) : (s.setFB fb).cpuAcc = s.cpuAcc := rfl
@[simp] theorem State.setFB_tmrAcc (fb : Framebuffer) : (s.setFB fb).tmrAcc = s.tmrAcc := rfl
@[simp] theorem State.setFB_rom (fb : Framebuffer) : (s.setFB fb).rom = s.rom := rfl
@[simp] theorem State.setFB_running (fb : Framebuffer) : (s.setFB fb).running = s.running := rfl
@[simp] theorem State.setFB_pass (fb : Framebuffer) : (s.setFB fb).pass = s.pass := rfl
@[simp] theorem State.setFB_host (fb : Framebuffer) : (s.setFB fb).host = s.host := rfl

@[simp] theorem State.writeBytes_cfg (a : Nat) (vs : List Byte) : (s.writeBytes a vs).cfg = s.cfg := rfl
@[simp] theorem State.writeBytes_mem (a : Nat) (vs : List Byte) : (s.writeBytes a vs).mem = memWriteBytes s.cfg s.mem a vs := rfl
@[simp] theorem State.writeBytes_V (a : Nat) (vs : List Byte) : (s.writeBytes a vs).V = s.V := rfl
@[simp] theorem State.writeBytes_I (a : Nat) (vs : List Byte) : (s.writeBytes a vs).I = s.I := rfl
@[simp] theorem State.writeBytes_pc (a : Nat) (vs : List Byte) : (s.writeBytes a vs).pc = s.pc := rfl
@[simp] theorem State.writeBytes_S (a : Nat) (vs : List Byte) : (s.writeBytes a vs).S = s.S := rfl
@[simp] theorem State.writeBytes_DT (a : Nat) (vs : List Byte) : (s.writeBytes a vs).DT = s.DT := rfl
@[simp] theorem State.writeBytes_ST (a : Nat) (vs : List Byte) : (s.writeBytes a vs).ST = s.ST := rfl
@[simp] theorem State.writeBytes_FB (a : Nat) (vs : List Byte) : (s.writeBytes a vs).FB = s.FB := rfl
@[simp] theorem State.writeBytes_KEY (a : Nat) (vs : List Byte) : (s.writeBytes a vs).KEY = s.KEY := rfl
@[simp] theorem State.writeBytes_errors (a : Nat) (vs : List Byte) : (s.writeBytes a vs).errors = s.errors := rfl
@[simp] theorem State.writeBytes_cpuAcc (a : Nat) (vs : List Byte) : (s.writeBytes a vs).cpuAcc = s.cpuAcc := rfl
@[simp] theorem State.writeBytes_tmrAcc (a : Nat) (vs : List Byte) : (s.writeBytes a vs).tmrAcc = s.tmrAcc := rfl
@[simp] theorem State.writeBytes_rom (a : Nat) (vs : List Byte) : (s.writeBytes a vs).rom = s.rom := rfl
@[simp] theorem State.writeBytes_running (a : Nat) (vs : List Byte) : (s.writeBytes a vs).running = s.running := rfl
@[simp] theorem State.writeBytes_pass (a : Nat) (vs : List Byte) : (s.writeBytes a vs).pass = s.pass := rfl
@[simp] theorem State.writeBytes_host (a : Nat) (vs : List Byte) : (s.writeBytes a vs).host = s.host := rfl

@[simp] theorem State.logError_cfg (r : ErrorRecord) : (s.logError r).cfg = s.cfg := rfl
@[simp] theorem State.logError_mem (r : ErrorRecord) : (s.logError r).mem = s.mem := rfl
@[simp] theorem State.logError_V (r : ErrorRecord) : (s.logError r).V = s.V := rfl
@[simp] theorem State.logError_I (r : ErrorRecord) : (s.logError r).I = s.I := rfl
@[simp] theorem State.logError_pc (r : ErrorRecord) : (s.logError r).pc = s.pc := rfl
@[simp] theorem State.logError_S (r : ErrorRecord) : (s.logError r).S = s.S := rfl
@[simp] theorem State.logError_DT (r : ErrorRecord) : (s.logError r).DT = s.DT := rfl
@[simp] theorem State.logError_ST (r : ErrorRecord) : (s.logError r).ST = s.ST := rfl
@[simp] theorem State.logError_FB (r : ErrorRecord) : (s.logError r).FB = s.FB := rfl
@[simp] theorem State.logError_KEY (r : ErrorRecord) : (s.logError r).KEY = s.KEY := rfl
@[simp] theorem State.logError_errors (r : ErrorRecord) : (s.logError r).errors = s.errors ++ [r] := rfl
@[simp] theorem State.logError_cpuAcc (r : ErrorRecord) : (s.logError r).cpuAcc = s.cpuAcc := rfl
@[simp] theorem State.logError_tmrAcc (r : ErrorRecord) : (s.logError r).tmrAcc = s.tmrAcc := rfl
@[simp] theorem State.logError_rom (r : ErrorRecord) : (s.logError r).rom = s.rom := rfl
@[simp] theorem State.logError_running (r : ErrorRecord) : (s.logError r).running = s.running := rfl
@[simp] theorem State.logError_pass (r : ErrorRecord) : (s.logError r).pass = s.pass := rfl
@[simp] theorem State.logError_host (r : ErrorRecord) : (s.logError r).host = s.host := rfl

@[simp] theorem State.advance_cfg : (s.advance).cfg = s.cfg := rfl
@[simp] theorem State.advance_mem : (s.advance).mem = s.mem := rfl
@[simp] theorem State.advance_V : (s.advance).V = s.V := rfl
@[simp] theorem State.advance_I : (s.advance).I = s.I := rfl
@[simp] theorem State.advance_pc : (s.advance).pc = s.pc + 2 := rfl
@[simp] theorem State.advance_S : (s.advance).S = s.S := rfl
@[simp] theorem State.advance_DT : (s.advance).DT = s.DT := rfl
@[simp] theorem State.advance_ST : (s.advance).ST = s.ST := rfl
@[simp] theorem State.advance_FB : (s.advance).FB = s.FB := rfl
@[simp] theorem State.advance_KEY : (s.advance).KEY = s.KEY := rfl
@[simp] theorem State.advance_errors : (s.advance).errors = s.errors := rfl
@[simp] theorem State.advance_cpuAcc : (s.advance).cpuAcc = s.cpuAcc := rfl
@[simp] theorem State.advance_tmrAcc : (s.advance).tmrAcc = s.tmrAcc := rfl
@[simp] theorem State.advance_rom : (s.advance).rom = s.rom := rfl
@[simp] theorem State.advance_running : (s.advance).running = s.running := rfl
@[simp] theorem State.advance_pass : (s.advance).pass = s.pass := rfl
@[simp] theorem State.advance_host : (s.advance).host = s.host := rfl

@[simp] theorem State.skipIf_cfg (b : Bool) : (s.skipIf b).cfg = s.cfg := rfl
@[simp] theorem State.skipIf_mem (b : Bool) : (s.skipIf b).mem = s.mem := rfl
@[simp] theorem State.skipIf_V (b : Bool) : (s.skipIf b).V = s.V := rfl
@[simp] theorem State.skipIf_I (b : Bool) : (s.skipIf b).I = s.I := rfl
@[simp] theorem State.skipIf_pc (b : Bool) : (s.skipIf b).pc = if b then s.pc + 4 else s.pc + 2 := rfl
@[simp] theorem State.skipIf_S (b : Bool) : (s.skipIf b).S = s.S := rfl
@[simp] theorem State.skipIf_DT (b : Bool) : (s.skipIf b).DT = s.DT := rfl
@[simp] theorem State.skipIf_ST (b : Bool) : (s.skipIf b).ST = s.ST := rfl
@[simp] theorem State.skipIf_FB (b : Bool) : (s.skipIf b).FB = s.FB := rfl
@[simp] theorem State.skipIf_KEY (b : Bool) : (s.skipIf b).KEY = s.KEY := rfl
@[simp] theorem State.skipIf_errors (b : Bool) : (s.skipIf b).errors = s.errors := rfl
@[simp] theorem State.skipIf_cpuAcc (b : Bool) : (s.skipIf b).cpuAcc = s.cpuAcc := rfl
@[simp] theorem State.skipIf_tmrAcc (b : Bool) : (s.skipIf b).tmrAcc = s.tmrAcc := rfl
@[simp] theorem State.skipIf_rom (b : Bool) : (s.skipIf b).rom = s.rom := rfl
@[simp] theorem State.skipIf_running (b : Bool) : (s.skipIf b).running = s.running := rfl
@[simp] theorem State.skipIf_pass (b : Bool) : (s.skipIf b).pass = s.pass := rfl
@[simp] theorem State.skipIf_host (b : Bool) : (s.skipIf b).host = s.host := rfl

@[simp] theorem afterByteDraw_cfg : (afterByteDraw s).cfg = s.cfg := rfl
@[simp] theorem afterByteDraw_mem : (afterByteDraw s).mem = s.mem := rfl
@[simp] theorem afterByteDraw_V : (afterByteDraw s).V = s.V := rfl
@[simp] theorem afterByteDraw_I : (afterByteDraw s).I = s.I := rfl
@[simp] theorem afterByteDraw_pc : (afterByteDraw s).pc = s.pc := rfl
@[simp] theorem afterByteDraw_S : (afterByteDraw s).S = s.S := rfl
@[simp] theorem afterByteDraw_DT : (afterByteDraw s).DT = s.DT := rfl
@[simp] theorem afterByteDraw_ST : (afterByteDraw s).ST = s.ST := rfl
@[simp] theorem afterByteDraw_FB : (afterByteDraw s).FB = s.FB := rfl
@[simp] theorem afterByteDraw_KEY : (afterByteDraw s).KEY = s.KEY := rfl
@[simp] theorem afterByteDraw_errors : (afterByteDraw s).errors = s.errors := rfl
@[simp] theorem afterByteDraw_cpuAcc : (afterByteDraw s).cpuAcc = s.cpuAcc := rfl
@[simp] theorem afterByteDraw_tmrAcc : (afterByteDraw s).tmrAcc = s.tmrAcc := rfl
@[simp] theorem afterByteDraw_rom : (afterByteDraw s).rom = s.rom := rfl
@[simp] theorem afterByteDraw_running : (afterByteDraw s).running = s.running := rfl
@[simp] theorem afterByteDraw_pass : (afterByteDraw s).pass = s.pass := rfl
@[simp] theorem afterByteDraw_host : (afterByteDraw s).host = { s.host with rndIn := s.host.rndIn.tail, rndCount := s.host.rndCount + 1 } := rfl

@[simp] theorem timerTick_cfg : (timerTick s).cfg = s.cfg := rfl
@[simp] theorem timerTick_mem : (timerTick s).mem = s.mem := rfl
@[simp] theorem timerTick_V : (timerTick s).V = s.V := rfl
@[simp] theorem timerTick_I : (timerTick s).I = s.I := rfl
@[simp] theorem timerTick_pc : (timerTick s).pc = s.pc := rfl
@[simp] theorem timerTick_S : (timerTick s).S = s.S := rfl
@[simp] theorem timerTick_DT : (timerTick s).DT = decTimer s.DT := rfl
@[simp] theorem timerTick_ST : (timerTick s).ST = decTimer s.ST := rfl
@[simp] theorem timerTick_FB : (timerTick s).FB = s.FB := rfl
@[simp] theorem timerTick_KEY : (timerTick s).KEY = s.KEY := rfl
@[simp] theorem timerTick_errors : (timerTick s).errors = s.errors := rfl
@[simp] theorem timerTick_cpuAcc : (timerTick s).cpuAcc = s.cpuAcc := rfl
@[simp] theorem timerTick_tmrAcc : (timerTick s).tmrAcc = s.tmrAcc := rfl
@[simp] theorem timerTick_rom : (timerTick s).rom = s.rom := rfl
@[simp] theorem timerTick_running : (timerTick s).running = s.running := rfl
@[simp] theorem timerTick_pass : (timerTick s).pass = s.pass := rfl
@[simp] theorem timerTick_host : (timerTick s).host = s.host := rfl

@[simp] theorem spendCpu_cfg : (spendCpu s).cfg = s.cfg := by simp only [spendCpu]
@[simp] theorem spendCpu_mem : (spendCpu s).mem = s.mem := by simp only [spendCpu]
@[simp] theorem spendCpu_V : (spendCpu s).V = s.V := by simp only [spendCpu]
@[simp] theorem spendCpu_I : (spendCpu s).I = s.I := by simp only [spendCpu]
@[simp] theorem spendCpu_pc : (spendCpu s).pc = s.pc := by simp only [spendCpu]
@[simp] theorem spendCpu_S : (spendCpu s).S = s.S := by simp only [spendCpu]
@[simp] theorem spendCpu_DT : (spendCpu s).DT = s.DT := by simp only [spendCpu]
@[simp] theorem spendCpu_ST : (spendCpu s).ST = s.ST := by simp only [spendCpu]
@[simp] theorem spendCpu_FB : (spendCpu s).FB = s.FB := by simp only [spendCpu]
@[simp] theorem spendCpu_KEY : (spendCpu s).KEY = s.KEY := by simp only [spendCpu]
@[simp] theorem spendCpu_errors : (spendCpu s).errors = s.errors := by simp only [spendCpu]
@[simp] theorem spendCpu_cpuAcc : (spendCpu s).cpuAcc = s.cpuAcc - cpuPeriod := by simp only [spendCpu]
@[simp] theorem spendCpu_tmrAcc : (spendCpu s).tmrAcc = s.tmrAcc := by simp only [spendCpu]
@[simp] theorem spendCpu_rom : (spendCpu s).rom = s.rom := by simp only [spendCpu]
@[simp] theorem spendCpu_running : (spendCpu s).running = s.running := by simp only [spendCpu]
@[simp] theorem spendCpu_pass : (spendCpu s).pass = s.pass := by simp only [spendCpu]
@[simp] theorem spendCpu_host : (spendCpu s).host = s.host := by simp only [spendCpu]

@[simp] theorem State.emit_cfg (o : HostOutput) : (s.emit o).cfg = s.cfg := rfl
@[simp] theorem State.emit_mem (o : HostOutput) : (s.emit o).mem = s.mem := rfl
@[simp] theorem State.emit_V (o : HostOutput) : (s.emit o).V = s.V := rfl
@[simp] theorem State.emit_I (o : HostOutput) : (s.emit o).I = s.I := rfl
@[simp] theorem State.emit_pc (o : HostOutput) : (s.emit o).pc = s.pc := rfl
@[simp] theorem State.emit_S (o : HostOutput) : (s.emit o).S = s.S := rfl
@[simp] theorem State.emit_DT (o : HostOutput) : (s.emit o).DT = s.DT := rfl
@[simp] theorem State.emit_ST (o : HostOutput) : (s.emit o).ST = s.ST := rfl
@[simp] theorem State.emit_FB (o : HostOutput) : (s.emit o).FB = s.FB := rfl
@[simp] theorem State.emit_KEY (o : HostOutput) : (s.emit o).KEY = s.KEY := rfl
@[simp] theorem State.emit_errors (o : HostOutput) : (s.emit o).errors = s.errors := rfl
@[simp] theorem State.emit_cpuAcc (o : HostOutput) : (s.emit o).cpuAcc = s.cpuAcc := rfl
@[simp] theorem State.emit_tmrAcc (o : HostOutput) : (s.emit o).tmrAcc = s.tmrAcc := rfl
@[simp] theorem State.emit_rom (o : HostOutput) : (s.emit o).rom = s.rom := rfl
@[simp] theorem State.emit_running (o : HostOutput) : (s.emit o).running = s.running := rfl
@[simp] theorem State.emit_pass (o : HostOutput) : (s.emit o).pass = s.pass := rfl
@[simp] theorem State.emit_host (o : HostOutput) : (s.emit o).host = { s.host with out := s.host.out ++ [o] } := rfl

@[simp] theorem State.withScript_cfg (l : List HostAction) : (s.withScript l).cfg = s.cfg := rfl
@[simp] theorem State.withScript_mem (l : List HostAction) : (s.withScript l).mem = s.mem := rfl
@[simp] theorem State.withScript_V (l : List HostAction) : (s.withScript l).V = s.V := rfl
@[simp] theorem State.withScript_I (l : List HostAction) : (s.withScript l).I = s.I := rfl
@[simp] theorem State.withScript_pc (l : List HostAction) : (s.withScript l).pc = s.pc := rfl
@[simp] theorem State.withScript_S (l : List HostAction) : (s.withScript l).S = s.S := rfl
@[simp] theorem State.withScript_DT (l : List HostAction) : (s.withScript l).DT = s.DT := rfl
@[simp] theorem State.withScript_ST (l : List HostAction) : (s.withScript l).ST = s.ST := rfl
@[simp] theorem State.withScript_FB (l : List HostAction) : (s.withScript l).FB = s.FB := rfl
@[simp] theorem State.withScript_KEY (l : List HostAction) : (s.withScript l).KEY = s.KEY := rfl
@[simp] theorem State.withScript_errors (l : List HostAction) : (s.withScript l).errors = s.errors := rfl
@[simp] theorem State.withScript_cpuAcc (l : List HostAction) : (s.withScript l).cpuAcc = s.cpuAcc := rfl
@[simp] theorem State.withScript_tmrAcc (l : List HostAction) : (s.withScript l).tmrAcc = s.tmrAcc := rfl
@[simp] theorem State.withScript_rom (l : List HostAction) : (s.withScript l).rom = s.rom := rfl
@[simp] theorem State.withScript_running (l : List HostAction) : (s.withScript l).running = s.running := rfl
@[simp] theorem State.withScript_pass (l : List HostAction) : (s.withScript l).pass = s.pass := rfl
@[simp] theorem State.withScript_host (l : List HostAction) : (s.withScript l).host = { s.host with script := l } := rfl

@[simp] theorem setKey_cfg (k : Key) (b : Bool) : (setKey k b s).cfg = s.cfg := rfl
@[simp] theorem setKey_mem (k : Key) (b : Bool) : (setKey k b s).mem = s.mem := rfl
@[simp] theorem setKey_V (k : Key) (b : Bool) : (setKey k b s).V = s.V := rfl
@[simp] theorem setKey_I (k : Key) (b : Bool) : (setKey k b s).I = s.I := rfl
@[simp] theorem setKey_pc (k : Key) (b : Bool) : (setKey k b s).pc = s.pc := rfl
@[simp] theorem setKey_S (k : Key) (b : Bool) : (setKey k b s).S = s.S := rfl
@[simp] theorem setKey_DT (k : Key) (b : Bool) : (setKey k b s).DT = s.DT := rfl
@[simp] theorem setKey_ST (k : Key) (b : Bool) : (setKey k b s).ST = s.ST := rfl
@[simp] theorem setKey_FB (k : Key) (b : Bool) : (setKey k b s).FB = s.FB := rfl
@[simp] theorem setKey_KEY (k : Key) (b : Bool) : (setKey k b s).KEY = s.KEY.set k b := rfl
@[simp] theorem setKey_errors (k : Key) (b : Bool) : (setKey k b s).errors = s.errors := rfl
@[simp] theorem setKey_cpuAcc (k : Key) (b : Bool) : (setKey k b s).cpuAcc = s.cpuAcc := rfl
@[simp] theorem setKey_tmrAcc (k : Key) (b : Bool) : (setKey k b s).tmrAcc = s.tmrAcc := rfl
@[simp] theorem setKey_rom (k : Key) (b : Bool) : (setKey k b s).rom = s.rom := rfl
@[simp] theorem setKey_running (k : Key) (b : Bool) : (setKey k b s).running = s.running := rfl
@[simp] theorem setKey_pass (k : Key) (b : Bool) : (setKey k b s).pass = s.pass := rfl
@[simp] theorem setKey_host (k : Key) (b : Bool) : (setKey k b s).host = s.host := rfl

@[simp] theorem stop_cfg : (stop s).cfg = s.cfg := rfl
@[simp] theorem stop_mem : (stop s).mem = s.mem := rfl
@[simp] theorem stop_V : (stop s).V = s.V := rfl
@[simp] theorem stop_I : (stop s).I = s.I := rfl
@[simp] theorem stop_pc : (stop s).pc = s.pc := rfl
@[simp] theorem stop_S : (stop s).S = s.S := rfl
@[simp] theorem stop_DT : (stop s).DT = s.DT := rfl
@[simp] theorem stop_ST : (stop s).ST = s.ST := rfl
@[simp] theorem stop_FB : (stop s).FB = s.FB := rfl
@[simp] theorem stop_KEY : (stop s).KEY = s.KEY := rfl
@[simp] theorem stop_errors : (stop s).errors = s.errors := rfl
@[simp] theorem stop_cpuAcc : (stop s).cpuAcc = s.cpuAcc := rfl
@[simp] theorem stop_tmrAcc : (stop s).tmrAcc = s.tmrAcc := rfl
@[simp] theorem stop_rom : (stop s).rom = s.rom := rfl
@[simp] theorem stop_running : (stop s).running = false := rfl
@[simp] theorem stop_pass : (stop s).pass = s.pass := rfl
@[simp] theorem stop_host : (stop s).host = s.host := rfl

@[simp] theorem supplyRandom_cfg (b : Byte) : (supplyRandom b s).cfg = s.cfg := rfl
@[simp] theorem supplyRandom_mem (b : Byte) : (supplyRandom b s).mem = s.mem := rfl
@[simp] theorem supplyRandom_V (b : Byte) : (supplyRandom b s).V = s.V := rfl
@[simp] theorem supplyRandom_I (b : Byte) : (supplyRandom b s).I = s.I := rfl
@[simp] theorem supplyRandom_pc (b : Byte) : (supplyRandom b s).pc = s.pc := rfl
@[simp] theorem supplyRandom_S (b : Byte) : (supplyRandom b s).S = s.S := rfl
@[simp] theorem supplyRandom_DT (b : Byte) : (supplyRandom b s).DT = s.DT := rfl
@[simp] theorem supplyRandom_ST (b : Byte) : (supplyRandom b s).ST = s.ST := rfl
@[simp] theorem supplyRandom_FB (b : Byte) : (supplyRandom b s).FB = s.FB := rfl
@[simp] theorem supplyRandom_KEY (b : Byte) : (supplyRandom b s).KEY = s.KEY := rfl
@[simp] theorem supplyRandom_errors (b : Byte) : (supplyRandom b s).errors = s.errors := rfl
@[simp] theorem supplyRandom_cpuAcc (b : Byte) : (supplyRandom b s).cpuAcc = s.cpuAcc := rfl
@[simp] theorem supplyRandom_tmrAcc (b : Byte) : (supplyRandom b s).tmrAcc = s.tmrAcc := rfl
@[simp] theorem supplyRandom_rom (b : Byte) : (supplyRandom b s).rom = s.rom := rfl
@[simp] theorem supplyRandom_running (b : Byte) : (supplyRandom b s).running = s.running := rfl
@[simp] theorem supplyRandom_pass (b : Byte) : (supplyRandom b s).pass = s.pass := rfl
@[simp] theorem supplyRandom_host (b : Byte) : (supplyRandom b s).host = { s.host with rndIn := s.host.rndIn ++ [b] } := rfl

@[simp] theorem State.setVThenFlag_eq (x : Reg) (v f : Byte) : s.setVThenFlag x v f = (s.setV x v).setV regVF f := rfl
@[simp] theorem State.clear_eq : s.clear = s.setFB Framebuffer.allOff := rfl

end Sys2Proof.Machine
end

