-- ==== Sys2Proof/Laws/Memory.lean ====
section
/-!
SUPPORT. Laws/Memory.lean: the canonical form of memory is kept by every memory operation, and a read after a write gives the
written byte at its address and the old one everywhere else.
-/

namespace Sys2Proof.Machine

variable {c : Config}

theorem wfFrom_cons {lo a : Nat} {v : Byte} {m : Memory} :
    Memory.wfFrom c lo ((a, v) :: m) = true ↔
      lo ≤ a ∧ a < memSize ∧ v ≠ resetByte c a ∧ Memory.wfFrom c (a + 1) m = true := by
  simp [Memory.wfFrom, and_assoc]

theorem wfFrom_mono {lo lo' : Nat} {m : Memory} (hle : lo' ≤ lo) (h : Memory.wfFrom c lo m = true) :
    Memory.wfFrom c lo' m = true := by
  cases m with
  | nil => rfl
  | cons p m =>
    obtain ⟨a, v⟩ := p
    rw [wfFrom_cons] at h ⊢
    exact ⟨by omega, h.2⟩

/-- Below the bound nothing is listed. -/
theorem memRead_below {lo a : Nat} {m : Memory} (h : Memory.wfFrom c lo m = true) (ha : a < lo) :
    memRead c m a = resetByte c a := by
  induction m generalizing lo with
  | nil => rfl
  | cons p m ih =>
    obtain ⟨b, v⟩ := p
    rw [wfFrom_cons] at h
    rw [memRead, if_neg (by omega)]
    exact ih h.2.2.2 (by omega)

theorem memCons_wf {lo a : Nat} {v : Byte} {m : Memory} (hlo : lo ≤ a) (ha : a < memSize)
    (h : Memory.wfFrom c (a + 1) m = true) : Memory.wfFrom c lo (memCons c a v m) = true := by
  unfold memCons
  split
  · exact wfFrom_mono (by omega) h
  · rw [wfFrom_cons]
    exact ⟨hlo, ha, ‹_›, h⟩

theorem memRead_memCons {a b : Nat} {v : Byte} {m : Memory} (h : Memory.wfFrom c (a + 1) m = true) :
    memRead c (memCons c a v m) b = if b = a then v else memRead c m b := by
  unfold memCons
  split
  · next hv =>
    split
    · next hb => rw [hb, memRead_below h (by omega), hv]
    · rfl
  · rfl

theorem memWrite_wfFrom {lo a : Nat} {v : Byte} {m : Memory} (h : Memory.wfFrom c lo m = true) (hlo : lo ≤ a)
    (ha : a < memSize) : Memory.wfFrom c lo (memWrite c m a v) = true := by
  induction m generalizing lo with
  | nil => exact memCons_wf hlo ha rfl
  | cons p m ih =>
    obtain ⟨b, w⟩ := p
    have hc := wfFrom_cons.mp h
    unfold memWrite
    split
    · exact memCons_wf hlo ha (wfFrom_cons.mpr ⟨by omega, hc.2⟩)
    · split
      · next hab => exact memCons_wf hlo ha (hab ▸ hc.2.2.2)
      · exact wfFrom_cons.mpr ⟨hc.1, hc.2.1, hc.2.2.1, ih hc.2.2.2 (by omega)⟩

theorem memRead_memWrite_from {lo a b : Nat} {v : Byte} {m : Memory} (h : Memory.wfFrom c lo m = true) :
    memRead c (memWrite c m a v) b = if b = a then v else memRead c m b := by
  induction m generalizing lo with
  | nil => exact memRead_memCons rfl
  | cons p m ih =>
    obtain ⟨d, w⟩ := p
    have hc := wfFrom_cons.mp h
    unfold memWrite
    split
    · exact memRead_memCons (wfFrom_cons.mpr ⟨by omega, hc.2⟩)
    · split
      · next hab =>
        subst hab
        rw [memRead_memCons hc.2.2.2]
        split
        · rfl
        · next hb => rw [memRead, if_neg hb]
      · next hab =>
        rw [memRead, memRead, ih hc.2.2.2]
        split
        · next hbd => rw [if_neg (by omega)]
        · rfl

/-- A write inside memory keeps the canonical form. -/
theorem memWrite_wf {a : Nat} {v : Byte} {m : Memory} (h : m.wf c = true) (ha : a < memSize) :
    (memWrite c m a v).wf c = true := memWrite_wfFrom h (Nat.zero_le _) ha

/-- A read after a write (R83): the written byte at its address, the old byte everywhere else. -/
theorem memRead_memWrite {a b : Nat} {v : Byte} {m : Memory} (h : m.wf c = true) :
    memRead c (memWrite c m a v) b = if b = a then v else memRead c m b := memRead_memWrite_from h

/-- Stores inside memory keep the canonical form. -/
theorem memWriteBytes_wf {a : Nat} {vs : List Byte} {m : Memory} (h : m.wf c = true) (ha : a + vs.length ≤ memSize) :
    (memWriteBytes c m a vs).wf c = true := by
  induction vs generalizing m a with
  | nil => exact h
  | cons v vs ih =>
    simp only [List.length_cons] at ha
    exact ih (memWrite_wf h (by omega)) (by omega)

/-- A read after stores at rising addresses: the stored byte inside their range, the old byte outside. -/
theorem memRead_memWriteBytes {a b : Nat} {vs : List Byte} {m : Memory} (h : m.wf c = true) (ha : a + vs.length ≤ memSize) :
    memRead c (memWriteBytes c m a vs) b = if a ≤ b ∧ b < a + vs.length then vs.getD (b - a) 0 else memRead c m b := by
  induction vs generalizing m a with
  | nil => rw [memWriteBytes, if_neg (by simp)]
  | cons v vs ih =>
    simp only [List.length_cons] at ha ⊢
    rw [memWriteBytes, ih (memWrite_wf h (by omega)) (by omega), memRead_memWrite h]
    by_cases h1 : a + 1 ≤ b ∧ b < a + 1 + vs.length
    · rw [if_pos h1, if_pos (by omega), show b - a = (b - (a + 1)) + 1 by omega, List.getD_cons_succ]
    · rw [if_neg h1]
      by_cases h2 : b = a
      · subst h2; simp
      · rw [if_neg h2, if_neg (by omega)]

/-- The state's stores, read back byte by byte. -/
theorem State.readByte_writeBytes {s : State} {a b : Nat} {vs : List Byte} (h : s.mem.wf s.cfg = true)
    (ha : a + vs.length ≤ memSize) :
    (s.writeBytes a vs).readByte b = if a ≤ b ∧ b < a + vs.length then vs.getD (b - a) 0 else s.readByte b :=
  memRead_memWriteBytes h ha

theorem State.reset_mem_wf : State.reset.mem.wf State.reset.cfg = true := rfl

end Sys2Proof.Machine
end

