-- ==== Sys2Proof/Laws/Ops.lean ====
section
/-!
SUPPORT. Laws/Ops.lean: one lemma per shared operation that says everything it can do: the error completion, the range check,
register writes, reading ranges, the pixels after a toggle and after a blit, key draws, and the monad of outcomes.
-/

namespace Sys2Proof.Machine

/-! ## Registers -/

/-- A register file after a write, in the form that simp gives an index of type `Reg`. -/
@[simp] theorem getElem_set_reg (r : Vector Byte 16) (x y : Reg) (v : Byte) :
    (r.set x.val v x.isLt)[y.val] = if y = x then v else r[y.val] := by
  simp only [Vector.getElem_set, Fin.ext_iff, eq_comm]

/-- A register after a write. -/
theorem State.setV_get (s : State) (x y : Reg) (v : Byte) : (s.setV x v).V[y] = if y = x then v else s.V[y] :=
  getElem_set_reg s.V x y v

theorem State.readByte_congr {s t : State} (hc : t.cfg = s.cfg) (hm : t.mem = s.mem) (a : Nat) :
    t.readByte a = s.readByte a := by rw [State.readByte, State.readByte, hc, hm]

/-- The registers after a load of a byte range from register `k` up. -/
theorem loadRegsFrom_get (vs : List Byte) (k : Nat) (r : Vector Byte 16) (y : Reg) (hk : k + vs.length ≤ 16) :
    (loadRegsFrom vs k r)[y] = if k ≤ y.val ∧ y.val < k + vs.length then vs.getD (y.val - k) 0 else r[y] := by
  induction vs generalizing k r with
  | nil => simp [loadRegsFrom]
  | cons v vs ih =>
    simp only [List.length_cons] at hk ⊢
    rw [loadRegsFrom, dif_pos (show k < 16 by omega), ih _ _ (by omega)]
    by_cases h1 : k + 1 ≤ y.val ∧ y.val < k + 1 + vs.length
    · rw [if_pos h1, if_pos (by omega), show y.val - k = (y.val - (k + 1)) + 1 by omega, List.getD_cons_succ]
    · rw [if_neg h1]
      by_cases h2 : y.val = k
      · subst h2; simp
      · rw [if_neg (by omega)]
        simp [Vector.getElem_set]
        omega

@[simp] theorem State.readBytes_length (s : State) (a n : Nat) : (s.readBytes a n).length = n := by simp [State.readBytes]

theorem State.readBytes_getD (s : State) (a n k : Nat) (hk : k < n) : (s.readBytes a n).getD k 0 = s.readByte (a + k) := by
  simp [State.readBytes, hk]

/-! ## The range check (R80) -/

theorem firstBadAddress_none {base : Word} {len : Nat} (h : len = 0 ∨ base.toNat + (len - 1) ≤ 0xFFF) :
    firstBadAddress base len = none := if_pos h

theorem firstBadAddress_some {base : Word} {len : Nat} (h0 : len ≠ 0) (h : 0xFFF < base.toNat + (len - 1)) :
    firstBadAddress base len = some (if 0x1000 ≤ base.toNat then base else 0x1000) := by
  unfold firstBadAddress
  rw [if_neg (by omega)]
  split <;> rfl

/-! ## The error completion (R145) -/

/-- What is left unchanged by an error. -/
theorem raiseError_spec (i : Instr) (k : ErrorKind) (info : Option Word) (s : State) :
    ∃ t, raiseError i k info s = .next t ∧ Raised i k info s t := by
  refine ⟨_, rfl, rfl, rfl, ?_⟩
  intro e he
  cases e <;> simp [Elem.same] at he ⊢
  exact fun _ => rfl

/-! ## Pixels -/

/-- A pixel after a toggle. -/
theorem pixelAt_togglePixel (fb : Framebuffer) (x px : Fin 64) (y py : Fin 32) :
    pixelAt (togglePixel fb x y) px py = if px = x ∧ py = y then !pixelAt fb px py else pixelAt fb px py := by
  simp only [pixelAt, togglePixel, Fin.getElem_fin, Vector.getElem_set, Fin.ext_iff]
  by_cases hy : y.val = py.val
  · simp only [hy, Vector.getElem_set, if_true]
    by_cases hx : x.val = px.val
    · simp [hx]
    · simp [hx, eq_comm]
  · simp [hy, eq_comm]

/-- Two framebuffers with the same pixels are equal. -/
theorem framebuffer_ext {a b : Framebuffer} (h : ∀ px py, pixelAt a px py = pixelAt b px py) : a = b := by
  apply Vector.ext
  intro y hy
  apply Vector.ext
  intro x hx
  exact h ⟨x, hx⟩ ⟨y, hy⟩

@[simp] theorem pixelAt_allOff (px : Fin 64) (py : Fin 32) : pixelAt Framebuffer.allOff px py = false := by
  simp [pixelAt, Framebuffer.allOff]

/-- A pixel after toggling distinct cells: flipped exactly when its cell is one of them; and a collision exactly when one of the
cells was on. -/
theorem foldl_blitCell {cells : List (Fin 64 × Fin 32)} (hd : cells.Nodup) (fb : Framebuffer) (b : Bool) :
    (∀ px py, pixelAt (cells.foldl blitCell (fb, b)).1 px py = if (px, py) ∈ cells then !pixelAt fb px py else pixelAt fb px py) ∧
    ((cells.foldl blitCell (fb, b)).2 = true ↔ b = true ∨ ∃ c ∈ cells, pixelAt fb c.1 c.2 = true) := by
  induction cells generalizing fb b with
  | nil => simp
  | cons c cells ih =>
    obtain ⟨hc, hd⟩ := List.nodup_cons.mp hd
    obtain ⟨h1, h2⟩ := ih hd (togglePixel fb c.1 c.2) (b || pixelAt fb c.1 c.2)
    rw [List.foldl_cons]
    refine ⟨fun px py => ?_, ?_⟩
    · rw [show blitCell (fb, b) c = (togglePixel fb c.1 c.2, b || pixelAt fb c.1 c.2) from rfl, h1, pixelAt_togglePixel]
      by_cases hpc : (px, py) = c
      · subst hpc; simp [hc]
      · have : ¬(px = c.1 ∧ py = c.2) := fun h => hpc (Prod.ext h.1 h.2)
        simp [hpc, this]
    · rw [show blitCell (fb, b) c = (togglePixel fb c.1 c.2, b || pixelAt fb c.1 c.2) from rfl, h2]
      have hsame : ∀ d ∈ cells, pixelAt (togglePixel fb c.1 c.2) d.1 d.2 = pixelAt fb d.1 d.2 := by
        intro d hdm
        rw [pixelAt_togglePixel, if_neg]
        rintro ⟨e1, e2⟩
        exact hc (Prod.ext e1 e2 ▸ hdm)
      constructor
      · rintro (h | ⟨d, hdm, hp⟩)
        · rcases Bool.or_eq_true_iff.mp h with h | h
          · exact .inl h
          · exact .inr ⟨c, List.mem_cons_self, h⟩
        · exact .inr ⟨d, List.mem_cons_of_mem _ hdm, hsame d hdm ▸ hp⟩
      · rintro (h | ⟨d, hdm, hp⟩)
        · exact .inl (by simp [h])
        · rcases List.mem_cons.mp hdm with h | h
          · exact .inl (by simp [← h, hp])
          · exact .inr ⟨d, h, (hsame d h).symm ▸ hp⟩

/-! ## Keys and draws -/

/-- The key number in a register. -/
theorem keyNumber_eq_some {v : Byte} {k : Key} : keyNumber v = some k ↔ v.toNat = k.val := by
  unfold keyNumber
  constructor
  · intro h
    split at h
    · cases h; rfl
    · cases h
  · intro h
    rw [dif_pos (h ▸ k.isLt)]
    exact congrArg some (Fin.ext h)

theorem keyNumber_eq_none {v : Byte} : keyNumber v = none ↔ 0xF < v.toNat := by
  unfold keyNumber
  split <;> simp <;> omega

/-- The pressed keys are the keys that are pressed. -/
@[simp] theorem mem_pressedKeys {s : State} {k : Key} : k ∈ pressedKeys s ↔ s.KEY[k] = true := by
  simp [pressedKeys]

/-- The drawn key is one of the pressed keys. -/
theorem drawnKey_mem (k : Key) (ks : List Key) (s : State) : drawnKey k ks s ∈ k :: ks := by
  unfold drawnKey
  split
  · exact List.mem_cons_self
  · next q qs =>
    have h : Config.freeKey s.host.keyCount % (k :: q :: qs).length < (k :: q :: qs).length := Nat.mod_lt _ (by simp)
    rw [List.getD_eq_getElem _ _ h]
    exact List.getElem_mem h

/-! ## Outcomes -/

@[simp] theorem onNext_next (s : State) (f : State → State) : onNext (.next s) f = .next (f s) := rfl

/-- What `onNext` answers. -/
theorem onNext_eq_next {o : Host.Outcome State Fault Refusal} {f : State → State} {t : State} :
    onNext o f = .next t ↔ ∃ u, o = .next u ∧ f u = t := by
  cases o <;> simp [onNext]

end Sys2Proof.Machine
end

