-- ==== Sys2Proof/Laws/Display.lean ====
section
/-!
SUPPORT. Laws/Display.lean: the cells of a sprite are the pixels it draws, each once (44_display.md R253, R254), and so what a blit does.
-/

namespace Sys2Proof.Machine

theorem placePixel_eq_some {wrap : Bool} {px py : Nat} {x : Fin 64} {y : Fin 32} :
    placePixel wrap px py = some (x, y) ↔ if wrap then px % 64 = x.val ∧ py % 32 = y.val else px = x.val ∧ py = y.val := by
  unfold placePixel
  cases wrap
  · by_cases h : px < 64 ∧ py < 32
    · simp [h, Fin.ext_iff]
    · simp only [h, Bool.false_eq_true, if_false, dif_neg, not_false_eq_true, reduceCtorEq, false_iff]
      omega
  · simp [Fin.ext_iff]

theorem mem_rowCells {wrap : Bool} {x0 y : Nat} {b : Byte} {q : Fin 64 × Fin 32} :
    q ∈ rowCells wrap x0 y b ↔ ∃ c, c < 8 ∧ b.getLsbD (7 - c) = true ∧ placePixel wrap (x0 + c) y = some q := by
  simp only [rowCells, List.mem_filterMap, List.mem_range]
  constructor
  · rintro ⟨c, hc, h⟩
    split at h
    · exact ⟨c, hc, ‹_›, h⟩
    · cases h
  · rintro ⟨c, hc, hb, h⟩
    exact ⟨c, hc, by rw [if_pos hb, h]⟩

/-- The row of a cell of a sprite, whether wrapped or not. -/
theorem row_of_mem_spriteCells {wrap : Bool} {x0 y : Nat} {rows : List Byte} {q : Fin 64 × Fin 32}
    (h : q ∈ spriteCells wrap x0 y rows) : ∃ r, r < rows.length ∧ (y + r) % 32 = q.2.val := by
  induction rows generalizing y with
  | nil => cases h
  | cons b rows ih =>
    rcases List.mem_append.mp h with h | h
    · obtain ⟨c, -, -, hp⟩ := mem_rowCells.mp h
      have := placePixel_eq_some.mp hp
      refine ⟨0, by simp, ?_⟩
      split at this <;> omega
    · obtain ⟨r, hr, e⟩ := ih h
      exact ⟨r + 1, by simpa using hr, by rw [← e]; congr 1; omega⟩

/-- The cells of a sprite are the pixels it draws. -/
theorem mem_spriteCells {wrap : Bool} {x0 y0 : Nat} {rows : List Byte} {px : Fin 64} {py : Fin 32} :
    (px, py) ∈ spriteCells wrap x0 y0 rows ↔ Draws wrap x0 y0 rows px py := by
  induction rows generalizing y0 with
  | nil => simp [spriteCells, Draws]
  | cons b rows ih =>
    rw [spriteCells, List.mem_append, mem_rowCells, ih]
    constructor
    · rintro (⟨c, hc, hb, hp⟩ | ⟨r, c, hr, hc, hb, hp⟩)
      · exact ⟨0, c, by simp, hc, by simpa [spriteBit] using hb, placePixel_eq_some.mp hp⟩
      · refine ⟨r + 1, c, by simpa using hr, hc, by simpa [spriteBit] using hb, ?_⟩
        rwa [show y0 + (r + 1) = y0 + 1 + r by omega]
    · rintro ⟨r, c, hr, hc, hb, hp⟩
      cases r with
      | zero => exact .inl ⟨c, hc, by simpa [spriteBit] using hb, placePixel_eq_some.mpr hp⟩
      | succ r =>
        refine .inr ⟨r, c, by simpa using hr, hc, by simpa [spriteBit] using hb, ?_⟩
        rwa [show y0 + 1 + r = y0 + (r + 1) by omega]

theorem rowCells_nodup (wrap : Bool) (x0 y : Nat) (b : Byte) : (rowCells wrap x0 y b).Nodup := by
  have hr : (List.range 8).Pairwise fun c d => c < d ∧ d < 8 := by decide
  refine List.Pairwise.filterMap _ ?_ hr
  rintro c d hcd q hq q' hq' rfl
  have h1 : placePixel wrap (x0 + c) y = some (q.1, q.2) := by
    split at hq
    · exact hq
    · cases hq
  have h2 : placePixel wrap (x0 + d) y = some (q.1, q.2) := by
    split at hq'
    · exact hq'
    · cases hq'
  have e1 := placePixel_eq_some.mp h1
  have e2 := placePixel_eq_some.mp h2
  cases wrap <;> simp at e1 e2 <;> omega

/-- No two sprite bits of one blit land on the same cell (R254). -/
theorem spriteCells_nodup (wrap : Bool) (x0 y0 : Nat) (rows : List Byte) (h : rows.length ≤ 32) :
    (spriteCells wrap x0 y0 rows).Nodup := by
  induction rows generalizing y0 with
  | nil => exact List.nodup_nil
  | cons b rows ih =>
    simp only [List.length_cons] at h
    refine List.nodup_append.mpr ⟨rowCells_nodup _ _ _ _, ih _ (by omega), ?_⟩
    rintro q hq q' hq' rfl
    obtain ⟨c, -, -, hp⟩ := mem_rowCells.mp hq
    obtain ⟨r, hr, e⟩ := row_of_mem_spriteCells hq'
    have := placePixel_eq_some.mp hp
    split at this <;> omega

end Sys2Proof.Machine
end

