-- ==== Sys2Proof/Laws/Exec.lean ====
section
/-!
SUPPORT. Laws/Exec.lean: what holds of every instruction's meaning: it answers a next state, it leaves alone what no
instruction writes, and what it can do to memory, the stack, pc and the log.
-/

namespace Sys2Proof.Machine

/-- Every instruction answers a next state in every state (R302, R305): an error completes its tick too. -/
theorem exec_answers (i : Instr) (s : State) : ∃ t, exec i s = .next t := by
  cases i
  case ret => simp only [exec, execRet]; split <;> exact ⟨_, rfl⟩
  case call => simp only [exec, execCall]; split <;> exact ⟨_, rfl⟩
  case drw => simp only [exec, execDrw]; split <;> exact ⟨_, rfl⟩
  case skp => simp only [exec, execSkp]; split <;> exact ⟨_, rfl⟩
  case sknp => simp only [exec, execSknp]; split <;> exact ⟨_, rfl⟩
  case ldVxK => simp only [exec, execLdVxK]; split <;> exact ⟨_, rfl⟩
  case ldB => simp only [exec, execLdB]; split <;> exact ⟨_, rfl⟩
  case storeRegs => simp only [exec, execStoreRegs]; split <;> exact ⟨_, rfl⟩
  case loadRegs => simp only [exec, execLoadRegs]; split <;> exact ⟨_, rfl⟩
  all_goals exact ⟨_, rfl⟩

/-- What no instruction writes. -/
structure KeptByExec (s t : State) : Prop where
  cfg : t.cfg = s.cfg
  KEY : t.KEY = s.KEY
  rom : t.rom = s.rom
  running : t.running = s.running
  cpuAcc : t.cpuAcc = s.cpuAcc
  tmrAcc : t.tmrAcc = s.tmrAcc
  pass : t.pass = s.pass
  script : t.host.script = s.host.script
  out : t.host.out = s.host.out

theorem KeptByExec.refl (s : State) : KeptByExec s s := ⟨rfl, rfl, rfl, rfl, rfl, rfl, rfl, rfl, rfl⟩

theorem KeptByExec.afterKeyDraw (ks : List Key) (s : State) : KeptByExec s (afterKeyDraw ks s) := by
  cases ks <;> exact ⟨rfl, rfl, rfl, rfl, rfl, rfl, rfl, rfl, rfl⟩

theorem KeptByExec.trans {s t u : State} (h : KeptByExec s t) (g : KeptByExec t u) : KeptByExec s u :=
  ⟨g.cfg.trans h.cfg, g.KEY.trans h.KEY, g.rom.trans h.rom, g.running.trans h.running, g.cpuAcc.trans h.cpuAcc,
   g.tmrAcc.trans h.tmrAcc, g.pass.trans h.pass, g.script.trans h.script, g.out.trans h.out⟩

/-- A logic result is one or two register writes (R193 to R195). -/
theorem setVLogic_cases (s : State) (x : Reg) (v : Byte) :
    (s.cfg.logicVfReset = true ∧ s.setVLogic x v = (s.setV x v).setV regVF 0) ∨
    (s.cfg.logicVfReset = false ∧ s.setVLogic x v = s.setV x v) := by
  unfold State.setVLogic
  cases s.cfg.logicVfReset <;> simp

/-- No instruction writes the configuration, the keypad, the stored ROM, the scheduler's state, or the host's script and outputs. -/
theorem exec_keeps {i : Instr} {s t : State} (h : exec i s = .next t) : KeptByExec s t := by
  have log : ∀ x v u, Host.Outcome.next (σ := State) (φ := Fault) (ρ := Refusal) (s.setVLogic x v).advance = .next u →
      KeptByExec s u := by
    rintro x v u ⟨⟩
    rcases setVLogic_cases s x v with ⟨-, e⟩ | ⟨-, e⟩ <;> rw [e] <;> exact ⟨rfl, rfl, rfl, rfl, rfl, rfl, rfl, rfl, rfl⟩
  cases i
  case orReg x y => exact log _ _ _ h
  case andReg x y => exact log _ _ _ h
  case xorReg x y => exact log _ _ _ h
  case ldVxK x =>
    simp only [exec, execLdVxK] at h
    split at h <;> cases h
    · exact .refl s
    · exact (KeptByExec.afterKeyDraw _ s).trans ⟨rfl, rfl, rfl, rfl, rfl, rfl, rfl, rfl, rfl⟩
  case ret => simp only [exec, execRet] at h; split at h <;> cases h <;> exact ⟨rfl, rfl, rfl, rfl, rfl, rfl, rfl, rfl, rfl⟩
  case call => simp only [exec, execCall] at h; split at h <;> cases h <;> exact ⟨rfl, rfl, rfl, rfl, rfl, rfl, rfl, rfl, rfl⟩
  case drw => simp only [exec, execDrw] at h; split at h <;> cases h <;> exact ⟨rfl, rfl, rfl, rfl, rfl, rfl, rfl, rfl, rfl⟩
  case skp => simp only [exec, execSkp] at h; split at h <;> cases h <;> exact ⟨rfl, rfl, rfl, rfl, rfl, rfl, rfl, rfl, rfl⟩
  case sknp => simp only [exec, execSknp] at h; split at h <;> cases h <;> exact ⟨rfl, rfl, rfl, rfl, rfl, rfl, rfl, rfl, rfl⟩
  case ldB => simp only [exec, execLdB] at h; split at h <;> cases h <;> exact ⟨rfl, rfl, rfl, rfl, rfl, rfl, rfl, rfl, rfl⟩
  case storeRegs =>
    simp only [exec, execStoreRegs] at h; split at h <;> cases h <;> exact ⟨rfl, rfl, rfl, rfl, rfl, rfl, rfl, rfl, rfl⟩
  case loadRegs =>
    simp only [exec, execLoadRegs] at h; split at h <;> cases h <;> exact ⟨rfl, rfl, rfl, rfl, rfl, rfl, rfl, rfl, rfl⟩
  all_goals cases h; exact ⟨rfl, rfl, rfl, rfl, rfl, rfl, rfl, rfl, rfl⟩

/-! ## What an instruction can do to memory, the stack, pc and the log -/

/-- A range that the check lets through ends inside memory (R80). -/
theorem firstBadAddress_eq_none {base : Word} {len : Nat} (h : firstBadAddress base len = none) (h0 : len ≠ 0) :
    base.toNat + len ≤ memSize := by
  unfold firstBadAddress at h
  split at h
  · next h1 =>
    rcases h1 with h1 | h1
    · exact absurd h1 h0
    · simp only [memSize]
      omega
  · split at h <;> cases h

/-- Every instruction, in one statement: memory keeps its canonical form; the stack is unchanged, pushed below its bound, or
popped; pc stays (LD Vx, K), advances, skips, is a jump target, or comes from the stack; the log is unchanged, or the
instruction raised, and then it has one more record, of this pc and this instruction's word, and pc has advanced. -/
structure ExecCan (i : Instr) (s t : State) : Prop where
  mem : s.mem.wf s.cfg = true → t.mem.wf s.cfg = true
  stack : t.S = s.S ∨ (s.S.length ≠ s.cfg.stackDepth ∧ t.S = s.S ++ [s.pc + 2]) ∨ t.S = s.S.dropLast
  pc : t.pc = s.pc ∨ t.pc = s.pc + 2 ∨ t.pc = s.pc + 4 ∨ t.pc.toNat ≤ 0x10FE ∨ t.pc ∈ s.S
  errors : t.errors = s.errors ∨ ∃ r, t.errors = s.errors ++ [r] ∧ r.pc = s.pc ∧ r.word = some (encode i) ∧
    r.kind ≠ .fetchOutOfRange ∧ t.pc = s.pc + 2 ∧ ∀ x y, i ≠ .seReg x y ∧ i ≠ .sneReg x y

theorem zextAddr_toNat (nnn : Addr12) : (zextAddr nnn).toNat = nnn.toNat := by
  simp only [zextAddr, BitVec.toNat_setWidth]
  omega

theorem raiseError_can {i : Instr} {k : ErrorKind} {info : Option Word} {s t : State} (hk : k ≠ .fetchOutOfRange)
    (hi : ∀ x y, i ≠ .seReg x y ∧ i ≠ .sneReg x y) (h : raiseError i k info s = .next t) : ExecCan i s t := by
  cases h
  exact ⟨id, .inl rfl, .inr (.inl rfl), .inr ⟨_, rfl, rfl, rfl, hk, rfl, hi⟩⟩

theorem exec_can {i : Instr} {s t : State} (h : exec i s = .next t) : ExecCan i s t := by
  have skip : ∀ j b, ExecCan j s (s.skipIf b) := fun j b =>
    ⟨id, .inl rfl, by cases b; exacts [.inr (.inl rfl), .inr (.inr (.inl rfl))], .inl rfl⟩
  have log : ∀ j x v u, Host.Outcome.next (σ := State) (φ := Fault) (ρ := Refusal) (s.setVLogic x v).advance = .next u →
      ExecCan j s u := by
    rintro j x v u ⟨⟩
    rcases setVLogic_cases s x v with ⟨-, e⟩ | ⟨-, e⟩ <;> rw [e] <;> exact ⟨id, .inl rfl, .inr (.inl rfl), .inl rfl⟩
  have jump : ∀ a : Addr12, (zextAddr a).toNat ≤ 0x10FE := fun a => by
    rw [zextAddr_toNat]
    omega
  cases i
  case orReg x y => exact log _ _ _ _ h
  case andReg x y => exact log _ _ _ _ h
  case xorReg x y => exact log _ _ _ _ h
  case seImm => cases h; exact skip _ _
  case sneImm => cases h; exact skip _ _
  case seReg => cases h; exact skip _ _
  case sneReg => cases h; exact skip _ _
  case jp a => cases h; exact ⟨id, .inl rfl, .inr (.inr (.inr (.inl (jump a)))), .inl rfl⟩
  case jpV0 a =>
    cases h
    have sum : (jumpTarget a s).toNat ≤ 0x10FE := by
      simp only [jumpTarget, BitVec.toNat_add, zextAddr_toNat, BitVec.toNat_setWidth]
      omega
    exact ⟨id, .inl rfl, .inr (.inr (.inr (.inl sum))), .inl rfl⟩
  case call a =>
    simp only [exec, execCall] at h
    split at h
    · exact raiseError_can (by decide) (by simp) h
    · next hd => cases h; exact ⟨id, .inr (.inl ⟨hd, rfl⟩), .inr (.inr (.inr (.inl (jump a)))), .inl rfl⟩
  case ret =>
    simp only [exec, execRet] at h
    split at h
    · exact raiseError_can (by decide) (by simp) h
    · next hg => cases h; exact ⟨id, .inr (.inr rfl), .inr (.inr (.inr (.inr (List.mem_of_getLast? hg)))), .inl rfl⟩
  case skp =>
    simp only [exec, execSkp] at h
    split at h
    · exact raiseError_can (by decide) (by simp) h
    · cases h; exact skip _ _
  case sknp =>
    simp only [exec, execSknp] at h
    split at h
    · exact raiseError_can (by decide) (by simp) h
    · cases h; exact skip _ _
  case ldB =>
    simp only [exec, execLdB] at h
    split at h
    · exact raiseError_can (by decide) (by simp) h
    · next hb =>
      cases h
      have inside := firstBadAddress_eq_none hb (by decide)
      exact ⟨fun hw => memWriteBytes_wf hw (by simpa [decimalDigits] using inside), .inl rfl, .inr (.inl rfl), .inl rfl⟩
  case storeRegs x =>
    simp only [exec, execStoreRegs] at h
    split at h
    · exact raiseError_can (by decide) (by simp) h
    · next hb =>
      cases h
      have inside := firstBadAddress_eq_none hb (by omega)
      exact ⟨fun hw => memWriteBytes_wf hw (by simpa [regsUpTo] using inside), .inl rfl, .inr (.inl rfl), .inl rfl⟩
  case loadRegs =>
    simp only [exec, execLoadRegs] at h
    split at h
    · exact raiseError_can (by decide) (by simp) h
    · cases h; exact ⟨id, .inl rfl, .inr (.inl rfl), .inl rfl⟩
  case drw =>
    simp only [exec, execDrw] at h
    split at h
    · exact raiseError_can (by decide) (by simp) h
    · cases h; exact ⟨id, .inl rfl, .inr (.inl rfl), .inl rfl⟩
  case ldVxK =>
    simp only [exec, execLdVxK] at h
    split at h
    · cases h; exact ⟨id, .inl rfl, .inl rfl, .inl rfl⟩
    · next ks _ => cases h; cases ks <;> exact ⟨id, .inl rfl, .inr (.inl rfl), .inl rfl⟩
  all_goals cases h; exact ⟨id, .inl rfl, .inr (.inl rfl), .inl rfl⟩

end Sys2Proof.Machine
end

