-- ==== Sys2Proof/Laws/PerInstr.lean ====
section
/-!
SUPPORT. Laws/PerInstr.lean: per-instruction families of statements. RowFits: the encoded word has the fixed bits of its row of
the opcode table (spec/opcode_table.json, match and mask).
-/

namespace Sys2Proof.Laws.RowFits

/-- The word of the instruction has the fixed bits of the row that its constructor stands for. -/
def Statement (i : Instr) : Prop := (rowOf i).fits (encode i) = true

/-- A row whose fixed bits are the family. -/
theorem fits_family {w p : Word} (h : fieldFamily w ++ 0#12 = p) : (OpcodeRow.mk p 0xF000).fits w = true :=
  beq_iff_eq.mpr ((and_mask_family w).trans h)

/-- A row whose fixed bits are the family and `n`. -/
theorem fits_familyN {w p : Word} (h : fieldFamily w ++ 0#8 ++ fieldN w = p) : (OpcodeRow.mk p 0xF00F).fits w = true :=
  beq_iff_eq.mpr ((and_mask_familyN w).trans h)

/-- A row whose fixed bits are the family and `kk`. -/
theorem fits_familyKK {w p : Word} (h : fieldFamily w ++ 0#4 ++ fieldKK w = p) : (OpcodeRow.mk p 0xF0FF).fits w = true :=
  beq_iff_eq.mpr ((and_mask_familyKK w).trans h)

theorem cls : Statement .cls := rfl
theorem ret : Statement .ret := rfl
theorem sys (nnn : Addr12) : Statement (.sys nnn) := fits_family (by simp [encode])
theorem jp (nnn : Addr12) : Statement (.jp nnn) := fits_family (by simp [encode])
theorem call (nnn : Addr12) : Statement (.call nnn) := fits_family (by simp [encode])
theorem seImm (x : Reg) (kk : Byte) : Statement (.seImm x kk) := fits_family (by simp [encode])
theorem sneImm (x : Reg) (kk : Byte) : Statement (.sneImm x kk) := fits_family (by simp [encode])
theorem seReg (x : Reg) (y : Reg) : Statement (.seReg x y) := fits_family (by simp [encode])
theorem ldImm (x : Reg) (kk : Byte) : Statement (.ldImm x kk) := fits_family (by simp [encode])
theorem addImm (x : Reg) (kk : Byte) : Statement (.addImm x kk) := fits_family (by simp [encode])
theorem ldReg (x : Reg) (y : Reg) : Statement (.ldReg x y) := fits_familyN (by simp [encode])
theorem orReg (x : Reg) (y : Reg) : Statement (.orReg x y) := fits_familyN (by simp [encode])
theorem andReg (x : Reg) (y : Reg) : Statement (.andReg x y) := fits_familyN (by simp [encode])
theorem xorReg (x : Reg) (y : Reg) : Statement (.xorReg x y) := fits_familyN (by simp [encode])
theorem addReg (x : Reg) (y : Reg) : Statement (.addReg x y) := fits_familyN (by simp [encode])
theorem subReg (x : Reg) (y : Reg) : Statement (.subReg x y) := fits_familyN (by simp [encode])
theorem shr (x : Reg) (y : Reg) : Statement (.shr x y) := fits_familyN (by simp [encode])
theorem subn (x : Reg) (y : Reg) : Statement (.subn x y) := fits_familyN (by simp [encode])
theorem shl (x : Reg) (y : Reg) : Statement (.shl x y) := fits_familyN (by simp [encode])
theorem sneReg (x : Reg) (y : Reg) : Statement (.sneReg x y) := fits_family (by simp [encode])
theorem ldI (nnn : Addr12) : Statement (.ldI nnn) := fits_family (by simp [encode])
theorem jpV0 (nnn : Addr12) : Statement (.jpV0 nnn) := fits_family (by simp [encode])
theorem rnd (x : Reg) (kk : Byte) : Statement (.rnd x kk) := fits_family (by simp [encode])
theorem drw (x : Reg) (y : Reg) (n : Nibble) : Statement (.drw x y n) := fits_family (by simp [encode])
theorem skp (x : Reg) : Statement (.skp x) := fits_familyKK (by simp [encode])
theorem sknp (x : Reg) : Statement (.sknp x) := fits_familyKK (by simp [encode])
theorem ldVxDT (x : Reg) : Statement (.ldVxDT x) := fits_familyKK (by simp [encode])
theorem ldVxK (x : Reg) : Statement (.ldVxK x) := fits_familyKK (by simp [encode])
theorem ldDT (x : Reg) : Statement (.ldDT x) := fits_familyKK (by simp [encode])
theorem ldST (x : Reg) : Statement (.ldST x) := fits_familyKK (by simp [encode])
theorem addI (x : Reg) : Statement (.addI x) := fits_familyKK (by simp [encode])
theorem ldF (x : Reg) : Statement (.ldF x) := fits_familyKK (by simp [encode])
theorem ldB (x : Reg) : Statement (.ldB x) := fits_familyKK (by simp [encode])
theorem storeRegs (x : Reg) : Statement (.storeRegs x) := fits_familyKK (by simp [encode])
theorem loadRegs (x : Reg) : Statement (.loadRegs x) := fits_familyKK (by simp [encode])
theorem nop8xy8 (x : Reg) (y : Reg) : Statement (.nop8xy8 x y) := fits_familyN (by simp [encode])
theorem nop8xy9 (x : Reg) (y : Reg) : Statement (.nop8xy9 x y) := fits_familyN (by simp [encode])
theorem nop8xyA (x : Reg) (y : Reg) : Statement (.nop8xyA x y) := fits_familyN (by simp [encode])
theorem nop8xyB (x : Reg) (y : Reg) : Statement (.nop8xyB x y) := fits_familyN (by simp [encode])
theorem nop8xyC (x : Reg) (y : Reg) : Statement (.nop8xyC x y) := fits_familyN (by simp [encode])
theorem nop8xyD (x : Reg) (y : Reg) : Statement (.nop8xyD x y) := fits_familyN (by simp [encode])
theorem nop8xyF (x : Reg) (y : Reg) : Statement (.nop8xyF x y) := fits_familyN (by simp [encode])
theorem nopEx (x : Reg) (kk : Byte) : Statement (.nopEx x kk) := fits_family (by simp [encode])
theorem nopFx (x : Reg) (kk : Byte) : Statement (.nopFx x kk) := fits_family (by simp [encode])

end Sys2Proof.Laws.RowFits
end

