-- ==== Sys2Proof/Laws/Step.lean ====
section
/-!
SUPPORT. Laws/Step.lean: everything that a CPU tick, a tick of a pass and a step can do, case by case.
-/

namespace Sys2Proof.Machine

/-- A CPU tick runs the decoded instruction, or logs that its fetch failed (R141, R143). -/
theorem cpuTick_cases {s t : State} (h : cpuTick s = .next t) :
    (lastFetch < s.pc.toNat ∧ t = s.logError (fetchErrorRecord s)) ∨
    (s.pc.toNat ≤ lastFetch ∧ exec (decodeWord (fetchWord s)) s = .next t) := by
  unfold cpuTick at h
  split at h
  · next hp =>
    cases h
    exact .inl ⟨hp, rfl⟩
  · next hp => exact .inr ⟨Nat.le_of_not_lt hp, h⟩

/-- A CPU tick answers a next state. -/
theorem cpuTick_answers (s : State) : ∃ t, cpuTick s = .next t := by
  unfold cpuTick
  split
  · exact ⟨_, rfl⟩
  · exact exec_answers _ s

/-- A CPU tick leaves alone what no instruction writes. -/
theorem cpuTick_keeps {s t : State} (h : cpuTick s = .next t) : KeptByExec s t := by
  rcases cpuTick_cases h with ⟨-, rfl⟩ | ⟨-, h⟩
  · exact ⟨rfl, rfl, rfl, rfl, rfl, rfl, rfl, rfl, rfl⟩
  · exact exec_keeps h

/-- A tick of a pass: nothing between passes; a CPU tick and its period; the end of the pass; or the end of a stopped pass (R322). -/
theorem passTick_cases {s t : State} (h : passTick s = .next t) :
    (s.pass = none ∧ t = s) ∨
    (∃ e u, s.pass = some e ∧ s.running = true ∧ cpuPeriod ≤ s.cpuAcc ∧ cpuTick s = .next u ∧ t = spendCpu u) ∨
    (∃ e, s.pass = some e ∧ s.running = true ∧ s.cpuAcc < cpuPeriod ∧ t = endPass e s) ∨
    (∃ e, s.pass = some e ∧ s.running = false ∧ t = { s with pass := none }) := by
  unfold passTick at h
  split at h
  · next hp =>
    cases h
    exact .inl ⟨hp, rfl⟩
  · next e hp =>
    split at h
    · next hr =>
      split at h
      · next hc =>
        obtain ⟨u, hu, rfl⟩ := onNext_eq_next.mp h
        exact .inr (.inl ⟨e, u, hp, hr, hc, hu, rfl⟩)
      · next hc =>
        cases h
        exact .inr (.inr (.inl ⟨e, hp, hr, Nat.lt_of_not_le hc, rfl⟩))
    · next hr =>
      cases h
      exact .inr (.inr (.inr ⟨e, hp, Bool.eq_false_iff.mpr hr, rfl⟩))

/-- The end of a pass, as a change of the timers, the accumulator and what the host has been handed (R322). -/
theorem endPass_eq (e : Nat) (s : State) :
    (s.cfg.cpuHz ≤ s.tmrAcc + e ∧ endPass e s = frameTick (timerTick { s with tmrAcc := s.tmrAcc + e - s.cfg.cpuHz, pass := none })) ∨
    (s.tmrAcc + e < s.cfg.cpuHz ∧ endPass e s = { s with tmrAcc := s.tmrAcc + e, pass := none }) := by
  unfold endPass
  split
  · next h => exact .inl ⟨h, rfl⟩
  · next h => exact .inr ⟨Nat.lt_of_not_le h, rfl⟩

/-- A tick of a pass keeps the stored ROM, the configuration and the host's script. -/
theorem passTick_keeps {s t : State} (h : passTick s = .next t) :
    t.rom = s.rom ∧ t.cfg = s.cfg ∧ t.host.script = s.host.script := by
  rcases passTick_cases h with ⟨-, rfl⟩ | ⟨e, u, -, -, -, hu, rfl⟩ | ⟨e, -, -, -, rfl⟩ | ⟨e, -, -, rfl⟩
  · exact ⟨rfl, rfl, rfl⟩
  · have k := cpuTick_keeps hu
    exact ⟨k.rom, k.cfg, k.script⟩
  · rcases endPass_eq e s with ⟨-, h⟩ | ⟨-, h⟩ <;> rw [h] <;> exact ⟨rfl, rfl, rfl⟩
  · exact ⟨rfl, rfl, rfl⟩

/-- A step: the core's own tick with the script empty, or the host's next action. -/
theorem step_cases {s t : State} (h : step s = .next t) :
    (s.host.script = [] ∧ ∃ u, passTick (regularPass s) = .next u ∧ t = settle u) ∨
    (∃ rest, s.host.script = .wait :: rest ∧ passTick (s.withScript rest) = .next t) ∨
    (∃ e rest, s.host.script = .pass e :: rest ∧ s.pass ≠ none ∧ passTick s = .next t) ∨
    (∃ e rest, s.host.script = .pass e :: rest ∧ s.pass = none ∧ t = beginPass e (s.withScript rest)) ∨
    (∃ rom rest, s.host.script = .load rom :: rest ∧ t = answer (load rom (s.withScript rest))) ∨
    (∃ rest, s.host.script = .reset :: rest ∧ t = answer (resetCore (s.withScript rest))) ∨
    (∃ k b rest, s.host.script = .setKey k b :: rest ∧ t = setKey k b (s.withScript rest)) ∨
    (∃ rest, s.host.script = .stop :: rest ∧ t = stop (s.withScript rest)) ∨
    (∃ b rest, s.host.script = .random b :: rest ∧ t = supplyRandom b (s.withScript rest)) := by
  unfold step machineStep at h
  split at h
  · next hs =>
    obtain ⟨u, hu, rfl⟩ := onNext_eq_next.mp h
    exact .inl ⟨hs, u, hu, rfl⟩
  · next a rest hs =>
    rw [hs]
    cases a with
    | load rom => cases h; exact .inr (.inr (.inr (.inr (.inl ⟨rom, rest, rfl, rfl⟩))))
    | reset => cases h; exact .inr (.inr (.inr (.inr (.inr (.inl ⟨rest, rfl, rfl⟩)))))
    | setKey k b => cases h; exact .inr (.inr (.inr (.inr (.inr (.inr (.inl ⟨k, b, rest, rfl, rfl⟩))))))
    | stop => cases h; exact .inr (.inr (.inr (.inr (.inr (.inr (.inr (.inl ⟨rest, rfl, rfl⟩)))))))
    | random b => cases h; exact .inr (.inr (.inr (.inr (.inr (.inr (.inr (.inr ⟨b, rest, rfl, rfl⟩)))))))
    | wait => exact .inr (.inl ⟨rest, rfl, h⟩)
    | pass e =>
      simp only [hostStep] at h
      split at h
      · next hp => cases h; exact .inr (.inr (.inr (.inl ⟨e, rest, rfl, hp, rfl⟩)))
      · next hp => exact .inr (.inr (.inl ⟨e, rest, rfl, by rw [hp]; simp, h⟩))

end Sys2Proof.Machine
end

