-- ==== Sys2Proof/Tests/Slice0.lean ====
section
/-!
SUPPORT. Tests/Slice0.lean: the WellFormed smoke tests, words written out from the encoding tables, one-step tests from
95_test_vectors.md (a test V<n> is its vector V<n>), and the witnesses that the hypotheses of the obligations can be met.
-/

set_option maxRecDepth 8000

namespace Sys2Proof.Tests

open Sys2Proof.Machine

/-! ## Helpers -/

/-- What a function sees in a next state. -/
def look {α : Type} (o : Host.Outcome State Fault Refusal) (f : State → α) : Option α :=
  match o with
  | .next t => some (f t)
  | .fault _ => none
  | .refused _ => none

/-- One step that runs the given word. -/
def tick {α : Type} (w : Nat) (s : State) (f : State → α) : Option α := look (step (s.withFetchWord 16 w)) f

/-- Registers set one by one. -/
def withRegs (l : List (Reg × Byte)) (s : State) : State := l.foldl (fun t p => t.setV p.1 p.2) s

/-- The reset state under another configuration. -/
def withCfg (c : Config) : State := { State.reset with cfg := c }

/-- One lit pixel. -/
def onAt (x : Fin 64) (y : Fin 32) : Framebuffer := togglePixel Framebuffer.allOff x y

/-- The number of lit pixels. -/
def litPixels (t : State) : Nat := t.FB.toList.foldl (fun n row => n + row.toList.countP id) 0

/-! ## Well-formedness: terms that stand for no word (30_encoding.md R105, R106, R108) -/

theorem test_sys_is_not_cls : WellFormed (.sys 0x0E0) = false := by decide
theorem test_sys_is_not_ret : WellFormed (.sys 0x0EE) = false := by decide
theorem test_unassigned_E_is_not_skp : WellFormed (.nopEx 4 0x9E) = false := by decide
theorem test_unassigned_E_is_not_sknp : WellFormed (.nopEx 4 0xA1) = false := by decide
theorem test_unassigned_F_is_none_of_the_nine :
    [0x07, 0x0A, 0x15, 0x18, 0x1E, 0x29, 0x33, 0x55, 0x65].map (fun kk => WellFormed (.nopFx 1 kk)) = List.replicate 9 false := by
  decide

/-! ## Decoding: a word of every row, bit by bit (30_encoding.md R101, R103, R105) -/

theorem test_decode_cls_ret_sys :
    decodeTableWord 16 0b0000000011100000 = some .cls ∧
    decodeTableWord 16 0b0000000011101110 = some .ret ∧
    decodeTableWord 16 0b0000000111100000 = some (.sys 0x1E0) := by decide

theorem test_decode_jumps_and_skips :
    decodeTableWord 16 0b0001111111111110 = some (.jp 0xFFE) ∧
    decodeTableWord 16 0b0010001100000001 = some (.call 0x301) ∧
    decodeTableWord 16 0b0011101000010000 = some (.seImm 0xA 0x10) ∧
    decodeTableWord 16 0b0100001100010001 = some (.sneImm 3 0x11) ∧
    decodeTableWord 16 0b0101000100100111 = some (.seReg 1 2) := by decide

theorem test_decode_load_add_immediate :
    decodeTableWord 16 0b0110101000101111 = some (.ldImm 0xA 0x2F) ∧
    decodeTableWord 16 0b0111000110000011 = some (.addImm 1 0x83) := by decide

theorem test_decode_register_arithmetic :
    decodeTableWord 16 0b1000000100100000 = some (.ldReg 1 2) ∧
    decodeTableWord 16 0b1000000100100001 = some (.orReg 1 2) ∧
    decodeTableWord 16 0b1000111100010010 = some (.andReg 0xF 1) ∧
    decodeTableWord 16 0b1000100000010011 = some (.xorReg 8 1) ∧
    decodeTableWord 16 0b1000101010110100 = some (.addReg 0xA 0xB) ∧
    decodeTableWord 16 0b1000000100100101 = some (.subReg 1 2) ∧
    decodeTableWord 16 0b1000000100100110 = some (.shr 1 2) ∧
    decodeTableWord 16 0b1000000111100111 = some (.subn 1 0xE) ∧
    decodeTableWord 16 0b1000000100101110 = some (.shl 1 2) := by decide

theorem test_decode_sne_index_jump_random_draw :
    decodeTableWord 16 0b1001000100101111 = some (.sneReg 1 2) ∧
    decodeTableWord 16 0b1010001011110000 = some (.ldI 0x2F0) ∧
    decodeTableWord 16 0b1011001100000001 = some (.jpV0 0x301) ∧
    decodeTableWord 16 0b1100001100001111 = some (.rnd 3 0x0F) ∧
    decodeTableWord 16 0b1101000100100101 = some (.drw 1 2 5) := by decide

theorem test_decode_keys_and_timers :
    decodeTableWord 16 0b1110010010011110 = some (.skp 4) ∧
    decodeTableWord 16 0b1110010010100001 = some (.sknp 4) ∧
    decodeTableWord 16 0b1111001100000111 = some (.ldVxDT 3) ∧
    decodeTableWord 16 0b1111001000001010 = some (.ldVxK 2) ∧
    decodeTableWord 16 0b1111000100010101 = some (.ldDT 1) ∧
    decodeTableWord 16 0b1111000100011000 = some (.ldST 1) := by decide

theorem test_decode_index_and_memory :
    decodeTableWord 16 0b1111001000011110 = some (.addI 2) ∧
    decodeTableWord 16 0b1111101000101001 = some (.ldF 0xA) ∧
    decodeTableWord 16 0b1111010100110011 = some (.ldB 5) ∧
    decodeTableWord 16 0b1111001001010101 = some (.storeRegs 2) ∧
    decodeTableWord 16 0b1111000101100101 = some (.loadRegs 1) := by decide

theorem test_decode_unassigned :
    decodeTableWord 16 0b1000000100101000 = some (.nop8xy8 1 2) ∧
    decodeTableWord 16 0b1000000100101001 = some (.nop8xy9 1 2) ∧
    decodeTableWord 16 0b1000000100101010 = some (.nop8xyA 1 2) ∧
    decodeTableWord 16 0b1000000100101011 = some (.nop8xyB 1 2) ∧
    decodeTableWord 16 0b1000000100101100 = some (.nop8xyC 1 2) ∧
    decodeTableWord 16 0b1000000100101101 = some (.nop8xyD 1 2) ∧
    decodeTableWord 16 0b1000000100101111 = some (.nop8xyF 1 2) ∧
    decodeTableWord 16 0b1110000010011111 = some (.nopEx 0 0x9F) ∧
    decodeTableWord 16 0b1111111111111111 = some (.nopFx 0xF 0xFF) := by decide

/-- The word that R106 names as SYS is of family 1 (R101, R105, R162; assumption 20). -/
theorem test_decode_10EE_by_family : decodeTableWord 16 0b0001000011101110 = some (.jp 0x0EE) := by decide

/-! ## One step each (95_test_vectors.md) -/

theorem test_V1_sys : tick 0x0123 (State.reset) (fun t => (t.pc, t.errors)) = some (0x202, []) := by decide
theorem test_V3_sys_not_cls : tick 0x01E0 ({ State.reset with FB := onAt 0 0 }) (fun t => (t.pc, litPixels t)) = some (0x202, 1) := by decide
theorem test_V4_ret : tick 0x00EE ({ State.reset with S := [0x202] }) (fun t => (t.pc, t.S)) = some (0x202, []) := by decide
theorem test_V5_ret_empty : tick 0x00EE (State.reset) (fun t => (t.pc, t.errors)) = some (0x202, [⟨.stackUnderflow, 0x200, some 0x00EE, none⟩]) := by decide
theorem test_V6_jp : tick 0x1228 (State.reset) (fun t => t.pc) = some 0x228 := by decide
theorem test_V7_jp_odd : tick 0x1201 (State.reset) (fun t => t.pc) = some 0x201 := by decide
theorem test_V8_call : tick 0x2300 (State.reset) (fun t => (t.pc, t.S)) = some (0x300, [0x202]) := by decide
theorem test_V9_call_full : tick 0x2300 ({ State.reset with S := List.replicate 16 0x202 }) (fun t => (t.pc, t.S.length, t.errors)) = some (0x202, 16, [⟨.stackOverflow, 0x200, some 0x2300, none⟩]) := by decide
theorem test_V10_se_imm_taken : tick 0x3310 (withRegs [(3, 0x10)] State.reset) (fun t => t.pc) = some 0x204 := by decide
theorem test_V21_se_imm_at_top : tick 0x3000 (State.reset.setPc 0xFFC) (fun t => t.pc) = some 0x1000 := by decide
theorem test_V12_sne_imm_not_taken : tick 0x4310 (withRegs [(3, 0x10)] State.reset) (fun t => t.pc) = some 0x202 := by decide
theorem test_V13_sne_imm_taken : tick 0x4311 (withRegs [(3, 0x10)] State.reset) (fun t => t.pc) = some 0x204 := by decide
theorem test_V15_se_reg_ignores_n : tick 0x5127 (withRegs [(1, 7), (2, 7)] State.reset) (fun t => t.pc) = some 0x204 := by decide
theorem test_se_reg_not_taken : tick 0x5120 (withRegs [(1, 7), (2, 8)] State.reset) (fun t => t.pc) = some 0x202 := by decide
theorem test_V17_sne_reg_taken : tick 0x9120 (withRegs [(1, 7), (2, 8)] State.reset) (fun t => t.pc) = some 0x204 := by decide
theorem test_V18_sne_reg_same : tick 0x9110 (withRegs [(1, 7)] State.reset) (fun t => t.pc) = some 0x202 := by decide
theorem test_V19_jp_v0 : tick 0xB300 (withRegs [(0, 4), (3, 9)] State.reset) (fun t => t.pc) = some 0x304 := by decide
theorem test_V20_jp_v0_unmasked : tick 0xBFFF (withRegs [(0, 0xFF)] State.reset) (fun t => t.pc) = some 0x10FE := by decide
theorem test_V22_ld_imm : tick 0x6A2F (State.reset) (fun t => (t.pc, t.V[(0xA : Reg)])) = some (0x202, 0x2F) := by decide
theorem test_V24_add_imm_no_flag : tick 0x7103 (withRegs [(1, 0xFE), (15, 0x55)] State.reset) (fun t => (t.V[(1 : Reg)], t.V[regVF])) = some (0x01, 0x55) := by decide
theorem test_V25_ld_reg : tick 0x8120 (withRegs [(2, 0x55)] State.reset) (fun t => (t.V[(1 : Reg)], t.V[(2 : Reg)])) = some (0x55, 0x55) := by decide
theorem test_V26_or_clears_vf : tick 0x8121 (withRegs [(1, 0x0F), (2, 0xF0), (15, 0x77)] State.reset) (fun t => (t.V[(1 : Reg)], t.V[regVF])) = some (0xFF, 0x00) := by decide
theorem test_V31_or_without_reset : tick 0x8121 (withRegs [(1, 0x0F), (2, 0xF0), (15, 0x77)] (withCfg { Config.default with logicVfReset := false })) (fun t => (t.V[(1 : Reg)], t.V[regVF])) = some (0xFF, 0x77) := by decide
theorem test_V27_and : tick 0x8122 (withRegs [(1, 0x3C), (2, 0x0F), (15, 0x77)] State.reset) (fun t => (t.V[(1 : Reg)], t.V[regVF])) = some (0x0C, 0x00) := by decide
theorem test_V28_xor : tick 0x8123 (withRegs [(1, 0xFF), (2, 0x0F), (15, 0x77)] State.reset) (fun t => (t.V[(1 : Reg)], t.V[regVF])) = some (0xF0, 0x00) := by decide
theorem test_V30_xor_into_vf : tick 0x8F13 (withRegs [(1, 0x01), (15, 0xF0)] State.reset) (fun t => t.V[regVF]) = some 0x00 := by decide
theorem test_V32_add_carry : tick 0x8124 (withRegs [(1, 0xFF), (2, 0x01)] State.reset) (fun t => (t.V[(1 : Reg)], t.V[regVF])) = some (0x00, 0x01) := by decide
theorem test_V37_add_into_vf : tick 0x8F14 (withRegs [(15, 0xFF), (1, 0x01)] State.reset) (fun t => t.V[regVF]) = some 0x01 := by decide
theorem test_V40_sub_borrow : tick 0x8125 (withRegs [(1, 3), (2, 5)] State.reset) (fun t => (t.V[(1 : Reg)], t.V[regVF])) = some (0xFE, 0x00) := by decide
theorem test_V41_sub_equal : tick 0x8125 (withRegs [(1, 7), (2, 7)] State.reset) (fun t => (t.V[(1 : Reg)], t.V[regVF])) = some (0x00, 0x01) := by decide
theorem test_V44_shr : tick 0x8106 (withRegs [(1, 5)] State.reset) (fun t => (t.V[(1 : Reg)], t.V[regVF])) = some (0x02, 0x01) := by decide
theorem test_V48_shr_source_vy : tick 0x8126 (withRegs [(1, 0xFF), (2, 4)] (withCfg { Config.default with shiftSourceVy := true })) (fun t => (t.V[(1 : Reg)], t.V[regVF])) = some (0x02, 0x00) := by decide
theorem test_V49_subn : tick 0x8127 (withRegs [(1, 3), (2, 5)] State.reset) (fun t => (t.V[(1 : Reg)], t.V[regVF])) = some (0x02, 0x01) := by decide
theorem test_V51_subn_into_vf : tick 0x8F17 (withRegs [(15, 3), (1, 5)] State.reset) (fun t => t.V[regVF]) = some 0x01 := by decide
theorem test_V52_shl : tick 0x810E (withRegs [(1, 0x81)] State.reset) (fun t => (t.V[(1 : Reg)], t.V[regVF])) = some (0x02, 0x01) := by decide
theorem test_V54_shl_into_vf : tick 0x8F0E (withRegs [(15, 0x80)] State.reset) (fun t => t.V[regVF]) = some 0x01 := by decide
theorem test_V58_rnd : tick 0xC30F (supplyRandom 0xA7 State.reset) (fun t => (t.V[(3 : Reg)], t.host.rndIn, t.host.rndCount)) = some (0x07, [], 1) := by decide
theorem test_V59_rnd_mask_0 : tick 0xC300 (supplyRandom 0xA7 (withRegs [(3, 0x55)] State.reset)) (fun t => (t.V[(3 : Reg)], t.host.rndIn)) = some (0x00, []) := by decide
theorem test_V61_ld_i : tick 0xA2F0 (State.reset) (fun t => (t.pc, t.I)) = some (0x202, 0x2F0) := by decide
theorem test_V62_add_i_flag : tick 0xF21E (withRegs [(2, 3)] (State.reset.setI 0xFFE)) (fun t => (t.I, t.V[regVF])) = some (0x1001, 0x01) := by decide
theorem test_V64_add_i_old_vf : tick 0xFF1E (withRegs [(15, 2)] (State.reset.setI 0x300)) (fun t => (t.I, t.V[regVF])) = some (0x302, 0x00) := by decide
theorem test_V66_ld_f : tick 0xFA29 (withRegs [(10, 10)] State.reset) (fun t => t.I) = some 0x082 := by decide
theorem test_V68_ld_f_unmasked : tick 0xF129 (withRegs [(1, 0x10)] State.reset) (fun t => t.I) = some 0x0A0 := by decide
theorem test_V69_ld_b : tick 0xF533 (withRegs [(5, 0x9C)] (State.reset.setI 0x300)) (fun t => (t.readBytes 0x300 3, t.I)) = some ([1, 5, 6], 0x300) := by decide
theorem test_V72_ld_b_out_of_range : tick 0xF533 (withRegs [(5, 0x7B)] (State.reset.setI 0xFFE)) (fun t => (t.pc, t.readBytes 0xFFE 2, t.errors)) = some (0x202, [0, 0], [⟨.memoryOutOfRange, 0x200, some 0xF533, some 0x1000⟩]) := by decide
theorem test_V73_store_regs : tick 0xF255 (withRegs [(0, 1), (1, 2), (2, 3), (3, 4)] (State.reset.setI 0x300)) (fun t => (t.readBytes 0x300 4, t.I)) = some ([1, 2, 3, 0], 0x300) := by decide
theorem test_V74_store_regs_increment : tick 0xF255 (withRegs [(0, 1), (1, 2), (2, 3)] ((withCfg { Config.default with loadStoreIncrementI := true }).setI 0x300)) (fun t => (t.readBytes 0x300 3, t.I)) = some ([1, 2, 3], 0x303) := by decide
theorem test_V77_load_regs : tick 0xF165 (withRegs [(2, 9)] ((State.reset.writeBytes 0x300 [0xAA, 0xBB, 0xCC]).setI 0x300)) (fun t => (t.V[(0 : Reg)], t.V[(1 : Reg)], t.V[(2 : Reg)])) = some (0xAA, 0xBB, 9) := by decide
theorem test_V80_load_regs_out_of_range : tick 0xF065 (State.reset.setI 0x1000) (fun t => (t.pc, t.errors)) = some (0x202, [⟨.memoryOutOfRange, 0x200, some 0xF065, some 0x1000⟩]) := by decide
theorem test_V81_cls : tick 0x00E0 ({ State.reset with FB := togglePixel (onAt 0 0) 63 31 }) (fun t => (t.pc, litPixels t)) = some (0x202, 0) := by decide
theorem test_V83_drw_glyph_collides : tick 0xD015 ({ State.reset.setI 0x050 with FB := onAt 0 0 }) (fun t => (t.V[regVF], litPixels t, pixelAt t.FB 0 0, pixelAt t.FB 3 4)) = some (0x01, 13, false, true) := by decide
theorem test_V84_drw_clipped : tick 0xD011 (withRegs [(0, 0x3C)] ((State.reset.writeBytes 0x300 [0xFF]).setI 0x300)) (fun t => (t.V[regVF], litPixels t)) = some (0x00, 4) := by decide
theorem test_V102_ld_k : tick 0xF20A (setKey 7 true State.reset) (fun t => (t.pc, t.V[(2 : Reg)])) = some (0x202, 0x07) := by decide
theorem test_V101_ld_k_waits : tick 0xF20A (State.reset) (fun t => (t.pc, t.V[(2 : Reg)])) = some (0x200, 0x00) := by decide
theorem test_V93_skp : tick 0xE49E (setKey 0xA true (withRegs [(4, 10)] State.reset)) (fun t => t.pc) = some 0x204 := by decide
theorem test_V97_skp_out_of_range : tick 0xE49E (withRegs [(4, 0x10)] State.reset) (fun t => (t.pc, t.errors)) = some (0x202, [⟨.keyOutOfRange, 0x200, some 0xE49E, some 0x10⟩]) := by decide
theorem test_V95_sknp : tick 0xE4A1 (withRegs [(4, 10)] State.reset) (fun t => t.pc) = some 0x204 := by decide
theorem test_V96_sknp_pressed : tick 0xE4A1 (setKey 0xA true (withRegs [(4, 10)] State.reset)) (fun t => t.pc) = some 0x202 := by decide
theorem test_V100_ld_vx_dt : tick 0xF307 (State.reset.setDT 0x3C) (fun t => (t.pc, t.V[(3 : Reg)])) = some (0x202, 0x3C) := by decide
theorem test_V104_ld_dt : tick 0xF115 (withRegs [(1, 0x3C)] State.reset) (fun t => (t.DT, t.ST)) = some (0x3C, 0x00) := by decide
theorem test_V105_ld_st : tick 0xF118 (withRegs [(1, 5)] State.reset) (fun t => (t.DT, t.ST, soundActive t)) = some (0x00, 0x05, true) := by decide
theorem test_V56_8xy8_no_op : tick 0x8128 (withRegs [(1, 1), (2, 2)] State.reset) (fun t => (t.pc, t.V[(1 : Reg)], t.V[(2 : Reg)], t.errors)) = some (0x202, 1, 2, []) := by decide
theorem test_8xy9_no_op : tick 0x8129 (withRegs [(1, 1), (2, 2)] State.reset) (fun t => (t.pc, t.V[(1 : Reg)], t.V[(2 : Reg)], t.errors)) = some (0x202, 1, 2, []) := by decide
theorem test_8xyA_no_op : tick 0x812A (withRegs [(1, 1), (2, 2)] State.reset) (fun t => (t.pc, t.V[(1 : Reg)], t.V[(2 : Reg)], t.errors)) = some (0x202, 1, 2, []) := by decide
theorem test_8xyB_no_op : tick 0x812B (withRegs [(1, 1), (2, 2)] State.reset) (fun t => (t.pc, t.V[(1 : Reg)], t.V[(2 : Reg)], t.errors)) = some (0x202, 1, 2, []) := by decide
theorem test_8xyC_no_op : tick 0x812C (withRegs [(1, 1), (2, 2)] State.reset) (fun t => (t.pc, t.V[(1 : Reg)], t.V[(2 : Reg)], t.errors)) = some (0x202, 1, 2, []) := by decide
theorem test_8xyD_no_op : tick 0x812D (withRegs [(1, 1), (2, 2)] State.reset) (fun t => (t.pc, t.V[(1 : Reg)], t.V[(2 : Reg)], t.errors)) = some (0x202, 1, 2, []) := by decide
theorem test_V57_8xyF_no_op : tick 0x812F (withRegs [(1, 1), (2, 2)] State.reset) (fun t => (t.pc, t.V[(1 : Reg)], t.V[(2 : Reg)], t.errors)) = some (0x202, 1, 2, []) := by decide
theorem test_Ex9F_no_op : tick 0xE49F (withRegs [(1, 1), (2, 2)] State.reset) (fun t => (t.pc, t.V[(1 : Reg)], t.V[(2 : Reg)], t.errors)) = some (0x202, 1, 2, []) := by decide
theorem test_V106_FxFF_no_op : tick 0xF1FF (withRegs [(1, 1), (2, 2)] State.reset) (fun t => (t.pc, t.V[(1 : Reg)], t.V[(2 : Reg)], t.errors)) = some (0x202, 1, 2, []) := by decide

/-! ## The tick, the scheduler and the host (95_test_vectors.md W, T, M, Z) -/

theorem test_W1_fetch_at_the_last_address :
    look (cpuTick ((State.reset.setPc 0xFFE).writeBytes 0xFFE [0x12, 0x00])) (fun t => t.pc) = some 0x200 := by decide

theorem test_W3_fetch_at_an_odd_address :
    look (cpuTick ((State.reset.setPc 0x201).writeBytes 0x201 [0x61, 0x23])) (fun t => (t.V[(1 : Reg)], t.pc)) = some (0x23, 0x203) := by
  decide

theorem test_W4_fetch_at_0xFFF :
    look (cpuTick (State.reset.setPc 0xFFF)) (fun t => (t.pc, t.errors)) = some (0xFFF, [⟨.fetchOutOfRange, 0xFFF, none, none⟩]) := by
  decide

theorem test_T2_pass_59 :
    look (schedulerPass 59 State.reset) (fun t => (t.cpuAcc, t.tmrAcc, t.pc, t.host.out.length)) = some (59, 59, 0x200, 0) := by decide

theorem test_T3_pass_1 :
    look (schedulerPass 1 { State.reset with cpuAcc := 59, tmrAcc := 59 }) (fun t => (t.cpuAcc, t.tmrAcc, t.pc)) =
      some (0, 60, 0x202) := by decide

theorem test_T5_pass_0_catches_up :
    look (schedulerPass 0 { State.reset with tmrAcc := 1200, DT := 5 }) (fun t => (t.tmrAcc, t.DT, t.host.out.length)) =
      some (600, 4, 1) := by decide

theorem test_T9_stopped : schedulerPass 600 (stop State.reset) = .next (stop State.reset) := by rfl

theorem test_M2_timer_tick :
    ((timerTick ((State.reset.setDT 1).setST 3)).DT, (timerTick ((State.reset.setDT 1).setST 3)).ST) = (0, 2) := by decide

theorem test_M3_timer_tick :
    ((timerTick ((State.reset.setDT 0xFF).setST 1)).DT, soundActive (timerTick ((State.reset.setDT 0xFF).setST 1))) =
      (0xFE, false) := by decide

theorem test_Z4_reset_before_load : resetCore State.powerOn = (.error .noRom, State.powerOn) := by decide

theorem test_Z6_load_zeroes_memory :
    (load [0x55] (load [0x11, 0x22, 0x33, 0x44] State.powerOn).2).2.readBytes 0x200 4 = [0x55, 0, 0, 0] := by decide

theorem test_Z8_glyphs_0_and_F :
    (State.reset.readBytes 0x050 5, State.reset.readBytes 0x09B 5) = ([0xF0, 0x90, 0x90, 0x90, 0xF0], [0xF0, 0x80, 0xF0, 0x80, 0x80]) := by
  decide

/-! ## Witnesses: the hypotheses of the obligations can be met, at the ends of their ranges -/

theorem witness_EncodedInstructionDecodesToItself :
    WellFormed (.drw 0xF 0 0xF) = true ∧ WellFormed (.sys 0x0E1) = true ∧ WellFormed (.nopEx 0 0x9F) = true ∧
    WellFormed (.nopFx 0xF 0x66) = true := by decide

theorem witness_DecodingLosesOnlyTheIgnoredNibble :
    fieldFamily 0x5127 = 0x5#4 ∧ fieldFamily 0x912F = 0x9#4 ∧ fieldFamily 0x8AB4 ≠ 0x5#4 ∧ fieldFamily 0x8AB4 ≠ 0x9#4 := by decide

theorem witness_DecoderSelectsTheMostSpecificTableRow :
    (⟨0x0000, 0xF000⟩ : OpcodeRow) ∈ opcodeRows ∧ (⟨0x0000, 0xF000⟩ : OpcodeRow).fits 0x00E0 = true ∧
    rowOf (decodeWord 0x00E0) = ⟨0x00E0, 0xFFFF⟩ := by decide

/-- A reset state with a word at `pc`. -/
def withWord (a : Word) (bytes : List Byte) : State := (State.reset.setPc a).writeBytes a.toNat bytes

theorem witness_StepRunsTheDecodedInstruction_between_passes :
    (withWord 0xFFE [0x12, 0x00]).host.script = [] ∧ (withWord 0xFFE [0x12, 0x00]).running = true ∧
    (withWord 0xFFE [0x12, 0x00]).pc.toNat ≤ 0xFFE ∧ (withWord 0xFFE [0x12, 0x00]).pass = none ∧
    decode [(withWord 0xFFE [0x12, 0x00]).readByte 0xFFE, (withWord 0xFFE [0x12, 0x00]).readByte 0xFFF] = .ok (.jp 0x200, []) := by
  refine ⟨rfl, rfl, by decide, rfl, rfl⟩

theorem witness_StepRunsTheDecodedInstruction_in_a_pass :
    ({ withWord 0x200 [0xD0, 0x15] with pass := some 60, cpuAcc := 60 } : State).host.script = [] ∧
    60 ≤ ({ withWord 0x200 [0xD0, 0x15] with pass := some 60, cpuAcc := 60 } : State).cpuAcc ∧
    decode [(withWord 0x200 [0xD0, 0x15]).readByte 0x200, (withWord 0x200 [0xD0, 0x15]).readByte 0x201] = .ok (.drw 0 1 5, []) := by
  refine ⟨rfl, by decide, rfl⟩

theorem witness_FetchPastTopLogsAndStays : 0xFFE < (State.reset.setPc 0xFFF).pc.toNat := by decide

theorem witness_ErrorRecordNamesTheFetchedWord :
    (withWord 0xFFE [0x00, 0xEE]).pc.toNat ≤ 0xFFE ∧ ∃ t, cpuTick (withWord 0xFFE [0x00, 0xEE]) = .next t ∧ t.errors.length = 1 :=
  ⟨by decide, _, rfl, by decide⟩

/-- A state that the host has loaded, with a stack, a pass in progress and work for the host. -/
def busy : State :=
  { (load [0x22, 0x00] State.powerOn).2 with
    S := [0x202], pass := some 90, cpuAcc := 90, host := { HostSide.quiet with script := [.setKey 3 true, .wait, .stop] } }

theorem busy_inv : Inv busy where
  memCanonical := by decide
  stackBounded := by decide
  romFits := by
    intro r h
    have h2 : some [0x22, 0x00] = some r := h
    simp only [Option.some.injEq] at h2
    subst h2
    decide
  configOk := by decide
  owesLess := by decide

theorem witness_StepKeepsTheMachineInvariant : Inv busy ∧ ∃ t, step busy = .next t := ⟨busy_inv, _, rfl⟩

theorem witness_StepKeepsPcBounded : PcBounded busy ∧ ∃ t, step busy = .next t :=
  ⟨⟨by decide, fun a h => (List.mem_singleton.mp h) ▸ by decide⟩, _, rfl⟩

/-- The ends of the bound: the highest `pc` that a jump reaches, and the highest return address. -/
theorem witness_StepKeepsPcBounded_ends : PcBounded { State.reset with pc := 0x10FE, S := [0x1000] } :=
  ⟨by decide, fun a h => (List.mem_singleton.mp h) ▸ by decide⟩

theorem witness_StepKeepsTheConfiguration : ∃ t, step busy = .next t := ⟨_, rfl⟩

theorem witness_ErrorLogGrowsByAtMostOneRecord :
    (∃ t, step busy = .next t) ∧ busy.host.script.head? ≠ some .reset ∧ ∀ rom, busy.host.script.head? ≠ some (.load rom) :=
  ⟨⟨_, rfl⟩, by decide, by intro rom h; simp [busy] at h⟩

theorem witness_EachElementIsWrittenOnlyByItsInstructions :
    ∃ t, Completes (.jp 0x300) State.reset t ∧ (∀ x, Instr.jp 0x300 ≠ .ldB x) ∧ (∀ x, Instr.jp 0x300 ≠ .storeRegs x) ∧
      (∀ a, Instr.jp 0x300 ≠ .ldI a) ∧ (∀ x, Instr.jp 0x300 ≠ .addI x) ∧ (∀ x, Instr.jp 0x300 ≠ .ldF x) ∧
      (∀ x, Instr.jp 0x300 ≠ .loadRegs x) ∧ (∀ a, Instr.jp 0x300 ≠ .call a) ∧ Instr.jp 0x300 ≠ .ret ∧
      (∀ x, Instr.jp 0x300 ≠ .ldDT x) ∧ (∀ x, Instr.jp 0x300 ≠ .ldST x) ∧ Instr.jp 0x300 ≠ .cls ∧
      ∀ x y n, Instr.jp 0x300 ≠ .drw x y n := by
  refine ⟨_, rfl, ?_⟩
  simp

theorem witness_VFIsWrittenOnlyByTheListedInstructions :
    ∃ t, Completes (.loadRegs 0xE) State.reset t ∧ Instr.loadRegs 0xE ≠ .loadRegs regVF ∧
      (∀ x y, Instr.loadRegs 0xE ≠ .addReg x y) ∧ (∀ x y n, Instr.loadRegs 0xE ≠ .drw x y n) ∧ ∀ x, Instr.loadRegs 0xE ≠ .addI x := by
  refine ⟨_, rfl, by decide, ?_⟩
  simp

theorem witness_OnlyThreeInstructionsReadTheKeypad :
    (∀ x, Instr.ldVxDT 1 ≠ .skp x) ∧ (∀ x, Instr.ldVxDT 1 ≠ .sknp x) ∧ ∀ x, Instr.ldVxDT 1 ≠ .ldVxK x := by simp

theorem witness_UnassignedWordsAreNoOps :
    (∃ x y : Reg, Instr.nop8xy8 0xF 0 = .nop8xy8 x y) ∧ (∃ x y : Reg, Instr.nop8xyF 0 0xF = .nop8xyF x y) ∧
    (∃ (x : Reg) (kk : Byte), Instr.nopEx 0 0x9F = .nopEx x kk) ∧ ∃ (x : Reg) (kk : Byte), Instr.nopFx 0xF 0xFF = .nopFx x kk :=
  ⟨⟨_, _, rfl⟩, ⟨_, _, rfl⟩, ⟨_, _, rfl⟩, ⟨_, _, rfl⟩⟩

theorem witness_RetPopsOrUnderflows :
    ({ State.reset with S := [0x300, 0x202] } : State).S = [0x300] ++ [0x202] ∧ State.reset.S = [] := ⟨rfl, rfl⟩

theorem witness_CallPushesOrOverflows :
    ({ State.reset with S := List.replicate 15 0x202 } : State).S.length ≠ State.reset.cfg.stackDepth ∧
    ({ State.reset with S := List.replicate 16 0x202 } : State).S.length = State.reset.cfg.stackDepth := by decide

theorem witness_CallThenRetReturnsAfterTheCall : State.reset.S.length ≠ State.reset.cfg.stackDepth := by decide

theorem witness_LogicResultsAndVFReset :
    (withCfg { Config.default with logicVfReset := false }).cfg.logicVfReset = false ∧ State.reset.cfg.logicVfReset = true ∧
    (0xE : Reg) ≠ regVF := by decide

theorem witness_AddAndSubtractWithFlag : (0xE : Reg) ≠ regVF := by decide

theorem witness_ShiftsByOneWithFlag :
    ((withRegs [(1, 0xFF), (2, 4)] State.reset).V[(1 : Reg)]).toNat =
      (if State.reset.cfg.shiftSourceVy then 4 else 0xFF) ∧
    ((withRegs [(1, 0xFF), (2, 4)] State.reset).V[(2 : Reg)]).toNat =
      (if (withCfg { Config.default with shiftSourceVy := true }).cfg.shiftSourceVy then 4 else 0xFF) := by decide

theorem witness_RndStoresOneDrawUnderTheMask :
    (supplyRandom 0xA7 State.reset).host.rndIn = [0xA7] ∧ State.reset.host.rndIn = [] := ⟨rfl, rfl⟩

theorem witness_LdBStoresDecimalDigits :
    State.reset.mem.wf State.reset.cfg = true ∧ (State.reset.setI 0xFFD).I.toNat + 2 ≤ 0xFFF := by decide

theorem witness_StoreRegsWritesV0ToVx :
    State.reset.mem.wf State.reset.cfg = true ∧ (State.reset.setI 0xFF0).I.toNat + (15 : Reg).val ≤ 0xFFF ∧
    (State.reset.setI 0xFFF).I.toNat + (0 : Reg).val ≤ 0xFFF := by decide

theorem witness_LoadRegsReadsV0ToVx :
    (State.reset.setI 0xFF0).I.toNat + (15 : Reg).val ≤ 0xFFF ∧ (State.reset.setI 0xFFF).I.toNat + (0 : Reg).val ≤ 0xFFF := by decide

theorem witness_AccessPastTopRaisesMemoryOutOfRange :
    (0x1000 : Word) = (if (State.reset.setI 0xFFE).I.toNat ≥ 0x1000 then (State.reset.setI 0xFFE).I else 0x1000) ∧
    0xFFF < (State.reset.setI 0xFFE).I.toNat + 3 - 1 ∧ 0xFFF < (State.reset.setI 0xFF1).I.toNat + ((15 : Reg).val + 1) - 1 ∧
    0xFFF < (State.reset.setI 0x1000).I.toNat + ((0 : Reg).val + 1) - 1 ∧
    0xFFF < (State.reset.setI 0xFFF).I.toNat + (2 : Nibble).toNat - 1 := by decide

theorem witness_StoredRegistersLoadBack :
    ∃ t, Completes (.storeRegs 15) (State.reset.setI 0xFF0) t ∧ (withRegs [(3, 9)] { t with I := 0xFF0 }).mem = t.mem ∧
      (withRegs [(3, 9)] { t with I := 0xFF0 }).I = (State.reset.setI 0xFF0).I := ⟨_, rfl, rfl, rfl⟩

theorem witness_FetchSeesStoredBytes :
    State.reset.mem.wf State.reset.cfg = true ∧ (State.reset.setPc 0xFFE).pc.toNat ≤ 0xFFE := by decide

theorem witness_DrwFlipsTheDrawnPixels :
    (0 : Nibble).toNat = 0 ∧ (State.reset.setI 0xFF1).I.toNat + (15 : Nibble).toNat - 1 ≤ 0xFFF ∧
    (List.range 2).map (fun r => (State.reset.setI 0x050).readByte (0x050 + r)) = [0xF0, 0x90] := by decide

theorem witness_BlitTwiceRestoresTheFramebuffer :
    (63 : Nat) < 64 ∧ (31 : Nat) < 32 ∧ (List.replicate 15 (0xFF : Byte)).length ≤ 15 ∧
    (blit false 60 0 [0x01] Framebuffer.allOff).1 = Framebuffer.allOff ∧ pixelAt (blit true 60 0 [0x01] Framebuffer.allOff).1 3 0 = true := by
  decide

theorem witness_KeySkipsReadTheKeyOrRaise :
    ((withRegs [(4, 0x0F)] State.reset).V[(4 : Reg)]).toNat = (15 : Key).val ∧ ((State.reset).V[(4 : Reg)]).toNat = (0 : Key).val ∧
    0xF < ((withRegs [(4, 0x10)] State.reset).V[(4 : Reg)]).toNat := by decide

theorem witness_KeyWaitStoresAPressedKey :
    (setKey 7 true State.reset).KEY[(7 : Key)] = true ∧ (∀ q : Key, (setKey 7 true State.reset).KEY[q] = true → q = 7) ∧
    (setKey 9 true (setKey 3 true State.reset)).KEY[(3 : Key)] = true := by decide

theorem witness_KeyWaitWithoutKeyChangesNothing : ∀ k : Key, State.reset.KEY[k] = false := by decide

theorem witness_PassEndTakesAtMostOneTimerAndFrameTick :
    State.reset.tmrAcc + 599 < State.reset.cfg.cpuHz ∧ State.reset.cfg.cpuHz ≤ State.reset.tmrAcc + 600 := by decide

theorem witness_PassRunsTheOwedCpuTicks : State.reset.running = true ∧ State.reset.pass = none := ⟨rfl, rfl⟩

theorem witness_StoppedCoreRunsNoTick :
    (stop busy).running = false ∧ (∃ t, step (stop busy) = .next t) ∧ (stop busy).host.script.head? = some (.setKey 3 true) := ⟨rfl, ⟨_, rfl⟩, rfl⟩

theorem witness_StopAndSetKeyTakeEffect :
    (State.reset.withScript [.stop, .reset]).host.script = .stop :: [.reset] ∧
    (State.reset.withScript [.setKey 15 true]).host.script = .setKey 15 true :: [] := ⟨rfl, rfl⟩

theorem witness_PassAndRandomActionsTakeEffect :
    ((State.reset.withScript [.pass 59]).host.script = .pass 59 :: [] ∧ (State.reset.withScript [.pass 59]).pass = none ∧
      (State.reset.withScript [.pass 59]).running = true) ∧
    (State.powerOn.withScript [.pass 0]).pass = none ∧ (State.powerOn.withScript [.pass 0]).running = false ∧
    (∃ t, step ({ busy with cpuAcc := 59 }.withScript [.pass 0]) = .next t) ∧ busy.pass ≠ none ∧
    (State.reset.withScript [.random 0xFF]).host.script = .random 0xFF :: [] :=
  ⟨⟨rfl, rfl, rfl⟩, rfl, rfl, ⟨_, rfl⟩, by decide, rfl⟩

theorem witness_LoadAndResetActionsAnswerTheHost :
    (busy.withScript [.load [0x00]]).host.script = .load [0x00] :: [] ∧ (load [0x00] busy).1 = .success ∧
    (State.powerOn.withScript [.reset, .stop]).host.script = .reset :: [.stop] ∧ (resetCore State.powerOn).1 = .error .noRom :=
  ⟨rfl, rfl, rfl, rfl⟩

theorem witness_StepKeepsWhatResetStartsFrom :
    (∃ t, step busy = .next t) ∧ busy.rom = some [0x22, 0x00] ∧ busy.host.script.head? = some (.setKey 3 true) := ⟨⟨_, rfl⟩, rfl, rfl⟩

theorem witness_LoadEstablishesTheResetState :
    (∀ b : Byte, (List.replicate 3584 b).length ≤ 3584) ∧ ([] : List Byte).length ≤ 3584 ∧ State.powerOn.cfg.ok = true :=
  ⟨fun _ => (List.length_replicate).le, by decide, by decide⟩

theorem witness_RefusedLoadChangesNothing :
    (∀ b : Byte, (List.replicate 3585 b).length = 3584 + 1) ∧ (withCfg { Config.default with stackDepth := 0 }).cfg.ok = false ∧
    (withCfg { Config.default with fontBase := 0x1B1 }).cfg.ok = false ∧ State.powerOn.rom = none ∧
    (withCfg { Config.default with cpuHz := 0 }).rom = some [] :=
  ⟨fun _ => List.length_replicate, by decide, by decide, rfl, rfl⟩

theorem witness_ResetRestoresTheLoadedState :
    ∃ loaded, load [0x60, 0x05] (State.powerOn.withScript [.setKey 3 true]) = (.success, loaded) ∧
      (∃ t, Host.Core.run Sys2Proof.core 2 loaded = .next t ∧ t.V[(0 : Reg)] = 5) ∧
      ∀ a ∈ loaded.host.script, a ≠ .reset ∧ ∀ r, a ≠ .load r := by
  refine ⟨_, rfl, ⟨_, rfl, by decide⟩, ?_⟩
  intro a ha
  simp [initState, State.withScript] at ha
  subst ha
  simp

end Sys2Proof.Tests
end

section
/-!
SUPPORT. The configuration is fixed for a run (00_scope.md R7), and what load, reset and the parts of a pass can do.
-/

namespace Sys2Proof.Machine

/-! ## What load, reset and the parts of a pass can do -/

/-- `load` refuses and leaves the state alone, or succeeds with a ROM that fits and a configuration inside its domain
(R350, R351, R303). -/
theorem load_cases (rom : List Byte) (s : State) :
    (∃ r, load rom s = (.error r, s)) ∨
    (rom.length ≤ maxRom ∧ s.cfg.ok = true ∧ load rom s = (.success, initState rom s)) := by
  unfold load
  split
  · exact .inl ⟨_, rfl⟩
  · next hlen =>
    split
    · next hok => exact .inr ⟨Nat.le_of_not_lt hlen, hok, rfl⟩
    · exact .inl ⟨_, rfl⟩

/-- `reset` refuses and leaves the state alone, or succeeds with the stored ROM (R352, R303). -/
theorem resetCore_cases (s : State) :
    (∃ r, resetCore s = (.error r, s)) ∨
    (∃ rom, s.rom = some rom ∧ s.cfg.ok = true ∧ resetCore s = (.success, initState rom s)) := by
  unfold resetCore
  split
  · exact .inl ⟨_, rfl⟩
  · next rom hrom =>
    split
    · next hok => exact .inr ⟨rom, hrom, hok, rfl⟩
    · exact .inl ⟨_, rfl⟩

/-- Starting a pass changes nothing on a stopped core, and on a running one the owed CPU time and the pass in progress (R322). -/
theorem beginPass_cases (e : Nat) (s : State) :
    (s.running = false ∧ beginPass e s = s) ∨
    (s.running = true ∧ beginPass e s = { s with cpuAcc := s.cpuAcc + e, pass := some e }) := by
  unfold beginPass
  cases s.running
  · exact .inl ⟨rfl, rfl⟩
  · exact .inr ⟨rfl, rfl⟩

/-- The regular call begins a pass between passes, and is not made inside one (R347, assumption 6). -/
theorem regularPass_cases (s : State) :
    (s.pass = none ∧ regularPass s = beginPass cpuPeriod s) ∨ (s.pass ≠ none ∧ regularPass s = s) := by
  unfold regularPass
  split
  · next hp => exact .inl ⟨hp, rfl⟩
  · next e hp => exact .inr ⟨by rw [hp]; exact Option.some_ne_none e, rfl⟩

/-- Settling ends a running core's pass that owes no CPU tick, and otherwise changes nothing (R322). -/
theorem settle_cases (s : State) :
    (∃ e, s.pass = some e ∧ s.running = true ∧ s.cpuAcc < cpuPeriod ∧ settle s = endPass e s) ∨
    ((s.pass = none ∨ s.running = false ∨ cpuPeriod ≤ s.cpuAcc) ∧ settle s = s) := by
  unfold settle
  split
  · next hp => exact .inr ⟨.inl hp, rfl⟩
  · next e hp =>
    split
    · next hdue => exact .inl ⟨e, hp, hdue.1, hdue.2, rfl⟩
    · next hnot =>
      refine .inr ⟨.inr ?_, rfl⟩
      cases hr : s.running
      · exact .inl rfl
      · exact .inr (Nat.le_of_not_lt fun hc => hnot ⟨hr, hc⟩)

/-! ## The configuration -/

@[simp] theorem initState_cfg (rom : List Byte) (s : State) : (initState rom s).cfg = s.cfg := rfl

@[simp] theorem answer_cfg (p : LoadReply × State) : (answer p).cfg = p.2.cfg := rfl

@[simp] theorem load_cfg (rom : List Byte) (s : State) : (load rom s).2.cfg = s.cfg := by
  rcases load_cases rom s with ⟨r, h⟩ | ⟨-, -, h⟩
  · rw [h]
  · rw [h, initState_cfg]

@[simp] theorem resetCore_cfg (s : State) : (resetCore s).2.cfg = s.cfg := by
  rcases resetCore_cases s with ⟨r, h⟩ | ⟨rom, -, -, h⟩
  · rw [h]
  · rw [h, initState_cfg]

@[simp] theorem beginPass_cfg (e : Nat) (s : State) : (beginPass e s).cfg = s.cfg := by
  rcases beginPass_cases e s with ⟨-, h⟩ | ⟨-, h⟩
  · rw [h]
  · rw [h]

@[simp] theorem endPass_cfg (e : Nat) (s : State) : (endPass e s).cfg = s.cfg := by
  rcases endPass_eq e s with ⟨-, h⟩ | ⟨-, h⟩
  · rw [h]; rfl
  · rw [h]

@[simp] theorem regularPass_cfg (s : State) : (regularPass s).cfg = s.cfg := by
  rcases regularPass_cases s with ⟨-, h⟩ | ⟨-, h⟩
  · rw [h, beginPass_cfg]
  · rw [h]

@[simp] theorem settle_cfg (s : State) : (settle s).cfg = s.cfg := by
  rcases settle_cases s with ⟨e, -, -, -, h⟩ | ⟨-, h⟩
  · rw [h, endPass_cfg]
  · rw [h]

theorem passTick_cfg {s t : State} (h : passTick s = .next t) : t.cfg = s.cfg := (passTick_keeps h).2.1

/-- Settles O13: by the cases of a step, none of which, the host's actions included, writes the configuration. -/
theorem stepKeepsTheConfiguration : Obligations.StepKeepsTheConfiguration := by
  intro s t h
  rcases step_cases h with ⟨-, u, hu, rfl⟩ | ⟨rest, -, ht⟩ | ⟨e, rest, -, -, ht⟩ | ⟨e, rest, -, -, rfl⟩ |
    ⟨rom, rest, -, rfl⟩ | ⟨rest, -, rfl⟩ | ⟨k, b, rest, -, rfl⟩ | ⟨rest, -, rfl⟩ | ⟨b, rest, -, rfl⟩
  case inl =>
    calc (settle u).cfg = u.cfg := settle_cfg u
      _ = (regularPass s).cfg := passTick_cfg hu
      _ = s.cfg := regularPass_cfg s
  case inr.inl =>
    calc t.cfg = (s.withScript rest).cfg := passTick_cfg ht
      _ = s.cfg := State.withScript_cfg s rest
  case inr.inr.inl => exact passTick_cfg ht
  all_goals simp

end Sys2Proof.Machine
end

section
/-!
SUPPORT. A property that every part of a step keeps is kept by the step: the machine invariant and the pc bound are two of them.
-/

namespace Sys2Proof.Machine

/-! ## Invariants by the parts of a step -/

/-- Every part that a step is made of keeps the property: taking an action off the script, handing the host something, each
of the host's actions, and the beginning, the CPU ticks and the end of a pass. -/
structure KeptByParts (P : State → Prop) : Prop where
  script : ∀ {s} l, P s → P (s.withScript l)
  output : ∀ {s} o, P s → P (s.emit o)
  key : ∀ {s} k b, P s → P (setKey k b s)
  stops : ∀ {s}, P s → P (stop s)
  random : ∀ {s} b, P s → P (supplyRandom b s)
  init : ∀ {s rom}, P s → rom.length ≤ maxRom ∨ s.rom = some rom → s.cfg.ok = true → P (initState rom s)
  begins : ∀ {s} e, P s → P (beginPass e s)
  ticks : ∀ {s u e}, P s → s.pass = some e → cpuTick s = .next u → P (spendCpu u)
  ends : ∀ {s} e, P s → s.cpuAcc < cpuPeriod → P (endPass e s)
  drops : ∀ {s}, P s → s.running = false → P { s with pass := none }

section
variable {P : State → Prop} {s t : State}

theorem passTick_preserves (hP : KeptByParts P) (hs : P s) (h : passTick s = .next t) : P t := by
  rcases passTick_cases h with ⟨-, rfl⟩ | ⟨e, u, he, -, -, hu, rfl⟩ | ⟨e, -, -, hc, rfl⟩ | ⟨e, -, hr, rfl⟩
  · exact hs
  · exact hP.ticks hs he hu
  · exact hP.ends e hs hc
  · exact hP.drops hs hr

theorem regularPass_preserves (hP : KeptByParts P) (hs : P s) : P (regularPass s) := by
  rcases regularPass_cases s with ⟨-, h⟩ | ⟨-, h⟩ <;> rw [h]
  · exact hP.begins _ hs
  · exact hs

theorem settle_preserves (hP : KeptByParts P) (hs : P s) : P (settle s) := by
  rcases settle_cases s with ⟨e, -, -, hc, h⟩ | ⟨-, h⟩ <;> rw [h]
  · exact hP.ends e hs hc
  · exact hs

theorem load_preserves (hP : KeptByParts P) (rom : List Byte) (hs : P s) : P (load rom s).2 := by
  rcases load_cases rom s with ⟨r, h⟩ | ⟨hlen, hok, h⟩ <;> rw [h]
  · exact hs
  · exact hP.init hs (.inl hlen) hok

theorem resetCore_preserves (hP : KeptByParts P) (hs : P s) : P (resetCore s).2 := by
  rcases resetCore_cases s with ⟨r, h⟩ | ⟨rom, hrom, hok, h⟩ <;> rw [h]
  · exact hs
  · exact hP.init hs (.inr hrom) hok

theorem step_preserves (hP : KeptByParts P) (hs : P s) (h : step s = .next t) : P t := by
  rcases step_cases h with ⟨-, u, hu, rfl⟩ | ⟨rest, -, ht⟩ | ⟨e, rest, -, -, ht⟩ | ⟨e, rest, -, -, rfl⟩ |
    ⟨rom, rest, -, rfl⟩ | ⟨rest, -, rfl⟩ | ⟨k, b, rest, -, rfl⟩ | ⟨rest, -, rfl⟩ | ⟨b, rest, -, rfl⟩
  · exact settle_preserves hP (passTick_preserves hP (regularPass_preserves hP hs) hu)
  · exact passTick_preserves hP (hP.script rest hs) ht
  · exact passTick_preserves hP hs ht
  · exact hP.begins e (hP.script rest hs)
  · exact hP.output _ (load_preserves hP rom (hP.script rest hs))
  · exact hP.output _ (resetCore_preserves hP (hP.script rest hs))
  · exact hP.key k b (hP.script rest hs)
  · exact hP.stops (hP.script rest hs)
  · exact hP.random b (hP.script rest hs)

end

/-! ## The machine invariant -/

/-- A push happens below the bound only, so an instruction keeps the stack within it (R38, R163). -/
theorem ExecCan.stackBounded {i : Instr} {s t : State} (h : ExecCan i s t) (hs : s.S.length ≤ s.cfg.stackDepth) :
    t.S.length ≤ s.cfg.stackDepth := by
  rcases h.stack with e | ⟨hne, e⟩ | e <;> rw [e]
  · exact hs
  · rw [List.length_append, List.length_singleton]
    omega
  · rw [List.length_dropLast]
    omega

/-- The ROM that `init` writes fits between the program start and the top of memory (R351, R353). -/
theorem initState_mem_wf {rom : List Byte} (s : State) (h : rom.length ≤ maxRom) :
    (initState rom s).mem.wf s.cfg = true :=
  memWriteBytes_wf rfl (by simp only [maxRom, memSize, programStart] at h ⊢; omega)

theorem inv_initState {rom : List Byte} {s : State} (hlen : rom.length ≤ maxRom) (hok : s.cfg.ok = true) :
    Inv (initState rom s) where
  memCanonical := initState_mem_wf s hlen
  stackBounded := Nat.zero_le _
  romFits _ hr := Option.some.inj hr ▸ hlen
  configOk _ := hok
  owesLess _ _ := (by decide : 0 < cpuPeriod)

/-- A CPU tick inside a pass keeps the invariant: what is owed counts between passes only. -/
theorem inv_spendCpu_cpuTick {s u : State} {e : Nat} (hs : Inv s) (he : s.pass = some e) (hu : cpuTick s = .next u) :
    Inv (spendCpu u) := by
  have kept := cpuTick_keeps hu
  have memAndStack : u.mem.wf s.cfg = true ∧ u.S.length ≤ s.cfg.stackDepth := by
    rcases cpuTick_cases hu with ⟨-, rfl⟩ | ⟨-, hx⟩
    · exact ⟨hs.memCanonical, hs.stackBounded⟩
    · exact ⟨(exec_can hx).mem hs.memCanonical, (exec_can hx).stackBounded hs.stackBounded⟩
  constructor
  case memCanonical => simpa [kept.cfg] using memAndStack.1
  case stackBounded => simpa [kept.cfg] using memAndStack.2
  case romFits => simpa [kept.rom] using hs.romFits
  case configOk => simpa [kept.cfg, kept.running] using hs.configOk
  case owesLess => simp [kept.pass, he]

theorem inv_beginPass {s : State} (e : Nat) (hs : Inv s) : Inv (beginPass e s) := by
  rcases beginPass_cases e s with ⟨-, h⟩ | ⟨-, h⟩ <;> rw [h]
  · exact hs
  · exact ⟨hs.memCanonical, hs.stackBounded, hs.romFits, hs.configOk, fun _ => nofun⟩

theorem inv_endPass {s : State} (e : Nat) (hs : Inv s) (hc : s.cpuAcc < cpuPeriod) : Inv (endPass e s) := by
  rcases endPass_eq e s with ⟨-, h⟩ | ⟨-, h⟩ <;> rw [h] <;>
    exact ⟨hs.memCanonical, hs.stackBounded, hs.romFits, hs.configOk, fun _ _ => hc⟩

theorem inv_keptByParts : KeptByParts Inv where
  script _ hs := ⟨hs.memCanonical, hs.stackBounded, hs.romFits, hs.configOk, hs.owesLess⟩
  output _ hs := ⟨hs.memCanonical, hs.stackBounded, hs.romFits, hs.configOk, hs.owesLess⟩
  key _ _ hs := ⟨hs.memCanonical, hs.stackBounded, hs.romFits, hs.configOk, hs.owesLess⟩
  stops hs := ⟨hs.memCanonical, hs.stackBounded, hs.romFits, nofun, nofun⟩
  random _ hs := ⟨hs.memCanonical, hs.stackBounded, hs.romFits, hs.configOk, hs.owesLess⟩
  init hs hrom hok := inv_initState (hrom.elim id (hs.romFits _)) hok
  begins := inv_beginPass
  ticks := inv_spendCpu_cpuTick
  ends := inv_endPass
  drops hs hr := ⟨hs.memCanonical, hs.stackBounded, hs.romFits, hs.configOk, fun h => by simp [hr] at h⟩

/-- Settles O9: every part of a step keeps the invariant. -/
theorem stepKeepsTheMachineInvariant : Obligations.StepKeepsTheMachineInvariant :=
  fun _ _ hs h => step_preserves inv_keptByParts hs h

/-- Settles O10: memory, stack and stored ROM are empty at reset, the configuration is the default one, and nothing is owed. -/
theorem resetMeetsTheMachineInvariant : Obligations.ResetMeetsTheMachineInvariant where
  memCanonical := State.reset_mem_wf
  stackBounded := Nat.zero_le _
  romFits _ hr := Option.some.inj hr ▸ Nat.zero_le _
  configOk _ := by decide
  owesLess _ _ := by decide

/-! ## The pc bound -/

theorem PcBounded.congr {s t : State} (hs : PcBounded s) (hpc : t.pc = s.pc) (hS : t.S = s.S) : PcBounded t :=
  ⟨hpc ▸ hs.pcSmall, hS ▸ hs.returnsSmall⟩

/-- From a `pc` where a whole instruction can be fetched, `pc + 2` is at most 0x1000 and `pc + 4` at most 0x1002. -/
theorem ExecCan.pcBounded {i : Instr} {s t : State} (h : ExecCan i s t) (hs : PcBounded s) (hf : s.pc.toNat ≤ lastFetch) :
    PcBounded t := by
  rw [lastFetch] at hf
  have small : (s.pc + 2).toNat ≤ 0x1000 ∧ (s.pc + 4).toNat ≤ 0x1002 := by
    constructor <;> bv_omega
  constructor
  case pcSmall =>
    rcases h.pc with e | e | e | le | mem
    · exact e ▸ hs.pcSmall
    · rw [e]; omega
    · rw [e]; omega
    · exact le
    · exact (hs.returnsSmall _ mem).trans (by decide)
  case returnsSmall =>
    intro a ha
    rcases h.stack with e | ⟨-, e⟩ | e <;> rw [e] at ha
    · exact hs.returnsSmall a ha
    · rcases List.mem_append.mp ha with old | new
      · exact hs.returnsSmall a old
      · exact List.mem_singleton.mp new ▸ small.1
    · exact hs.returnsSmall a (List.mem_of_mem_dropLast ha)

theorem pcBounded_cpuTick {s u : State} (hs : PcBounded s) (hu : cpuTick s = .next u) : PcBounded u := by
  rcases cpuTick_cases hu with ⟨-, rfl⟩ | ⟨hf, hx⟩
  · exact hs.congr rfl rfl
  · exact (exec_can hx).pcBounded hs hf

theorem pcBounded_beginPass {s : State} (e : Nat) (hs : PcBounded s) : PcBounded (beginPass e s) := by
  rcases beginPass_cases e s with ⟨-, h⟩ | ⟨-, h⟩ <;> rw [h]
  · exact hs
  · exact hs.congr rfl rfl

theorem pcBounded_endPass {s : State} (e : Nat) (hs : PcBounded s) : PcBounded (endPass e s) := by
  rcases endPass_eq e s with ⟨-, h⟩ | ⟨-, h⟩ <;> rw [h] <;> exact hs.congr rfl rfl

theorem pcBounded_keptByParts : KeptByParts PcBounded where
  script _ hs := hs.congr rfl rfl
  output _ hs := hs.congr rfl rfl
  key _ _ hs := hs.congr rfl rfl
  stops hs := hs.congr rfl rfl
  random _ hs := hs.congr rfl rfl
  init _ _ _ := ⟨(by decide : (0x200 : Word).toNat ≤ 0x10FE), nofun⟩
  begins := pcBounded_beginPass
  ticks hs _ hu := (pcBounded_cpuTick hs hu).congr rfl rfl
  ends e hs _ := pcBounded_endPass e hs
  drops hs _ := hs.congr rfl rfl

/-- Settles O11: every part of a step keeps the bound, and an instruction runs only at a `pc` of at most 0xFFE. -/
theorem stepKeepsPcBounded : Obligations.StepKeepsPcBounded :=
  fun _ _ hs h => step_preserves pcBounded_keptByParts hs h

/-- Settles O12: `pc` is 0x200 and the stack is empty. -/
theorem resetMeetsThePcBound : Obligations.ResetMeetsThePcBound := ⟨by decide, nofun⟩

end Sys2Proof.Machine
end

section
/-!
SUPPORT. What `reset` starts from is kept by every step that is no load or reset (70_reset_and_hazards.md R355).
-/

namespace Sys2Proof.Machine

/-- The stored ROM and the host's script are the same in two states. -/
structure SameRomAndScript (s t : State) : Prop where
  rom : t.rom = s.rom
  script : t.host.script = s.host.script

theorem SameRomAndScript.trans {s t u : State} (h : SameRomAndScript s t) (g : SameRomAndScript t u) : SameRomAndScript s u :=
  ⟨g.rom.trans h.rom, g.script.trans h.script⟩

theorem beginPass_sameRomAndScript (e : Nat) (s : State) : SameRomAndScript s (beginPass e s) := by
  rcases beginPass_cases e s with ⟨-, h⟩ | ⟨-, h⟩ <;> rw [h] <;> exact ⟨rfl, rfl⟩

theorem endPass_sameRomAndScript (e : Nat) (s : State) : SameRomAndScript s (endPass e s) := by
  rcases endPass_eq e s with ⟨-, h⟩ | ⟨-, h⟩ <;> rw [h] <;> exact ⟨rfl, rfl⟩

theorem regularPass_sameRomAndScript (s : State) : SameRomAndScript s (regularPass s) := by
  rcases regularPass_cases s with ⟨-, h⟩ | ⟨-, h⟩ <;> rw [h]
  · exact beginPass_sameRomAndScript cpuPeriod s
  · exact ⟨rfl, rfl⟩

theorem settle_sameRomAndScript (s : State) : SameRomAndScript s (settle s) := by
  rcases settle_cases s with ⟨e, -, -, -, h⟩ | ⟨-, h⟩ <;> rw [h]
  · exact endPass_sameRomAndScript e s
  · exact ⟨rfl, rfl⟩

theorem passTick_sameRomAndScript {s t : State} (h : passTick s = .next t) : SameRomAndScript s t :=
  ⟨(passTick_keeps h).1, (passTick_keeps h).2.2⟩

/-- A step without a load or reset keeps the stored ROM, and leaves the script or takes its first action. -/
theorem step_rom_and_script {s t : State} (h : step s = .next t) (hreset : s.host.script.head? ≠ some .reset)
    (hload : ∀ rom, s.host.script.head? ≠ some (.load rom)) :
    t.rom = s.rom ∧ (t.host.script = s.host.script ∨ ∃ a, s.host.script = a :: t.host.script) := by
  rcases step_cases h with ⟨-, u, hu, rfl⟩ | ⟨rest, hs, ht⟩ | ⟨e, rest, -, -, ht⟩ | ⟨e, rest, hs, -, rfl⟩ |
    ⟨rom, rest, hs, -⟩ | ⟨rest, hs, -⟩ | ⟨k, b, rest, hs, rfl⟩ | ⟨rest, hs, rfl⟩ | ⟨b, rest, hs, rfl⟩
  · have same := ((regularPass_sameRomAndScript s).trans (passTick_sameRomAndScript hu)).trans (settle_sameRomAndScript u)
    exact ⟨same.rom, .inl same.script⟩
  · have same := passTick_sameRomAndScript ht
    exact ⟨same.rom, .inr ⟨_, hs.trans (congrArg _ same.script.symm)⟩⟩
  · have same := passTick_sameRomAndScript ht
    exact ⟨same.rom, .inl same.script⟩
  · have same := beginPass_sameRomAndScript e (s.withScript rest)
    exact ⟨same.rom, .inr ⟨_, hs.trans (congrArg _ same.script.symm)⟩⟩
  · exact absurd (congrArg List.head? hs) (hload rom)
  · exact absurd (congrArg List.head? hs) hreset
  all_goals exact ⟨rfl, .inr ⟨_, hs⟩⟩

/-- Settles O57: the configuration is kept by every step, and what is left of the script is all of it or its tail. -/
theorem stepKeepsWhatResetStartsFrom : Obligations.StepKeepsWhatResetStartsFrom := by
  intro s t h hreset hload
  obtain ⟨rom, same | ⟨a, taken⟩⟩ := step_rom_and_script h hreset hload
  · exact ⟨rom, stepKeepsTheConfiguration s t h, same ▸ List.suffix_rfl⟩
  · exact ⟨rom, stepKeepsTheConfiguration s t h, taken ▸ List.suffix_cons a _⟩

/-- Settles O59: `load []` runs the whole initialisation, whose empty ROM writes no byte, and power-on stores no ROM. -/
theorem resetStateIsTheLoadedEmptyRom : Obligations.ResetStateIsTheLoadedEmptyRom := ⟨rfl, rfl⟩

end Sys2Proof.Machine
end

section
/-!
SUPPORT. The frame of every instruction as one table: which elements each can write, in any state. One frame lemma per
operation on the state; the frame of an instruction is put together from those of the operations that it calls.
-/

namespace Sys2Proof.Machine

/-! ## Frames of the operations -/

theorem UnchangedBut.mono {w w' : List Elem} {s t : State} (h : UnchangedBut w s t) (hw : w ⊆ w') : UnchangedBut w' s t :=
  fun e he => h e fun hm => he (hw hm)

theorem Elem.same_trans {e : Elem} {s t u : State} (h : e.same s t) (g : e.same t u) : e.same s u := by
  cases e
  case mem => exact fun a => (g a).trans (h a)
  case sched =>
    obtain ⟨h1, h2, h3, h4⟩ := h
    obtain ⟨g1, g2, g3, g4⟩ := g
    exact ⟨g1.trans h1, g2.trans h2, g3.trans h3, g4.trans h4⟩
  case draws =>
    obtain ⟨h1, h2, h3⟩ := h
    obtain ⟨g1, g2, g3⟩ := g
    exact ⟨g1.trans h1, g2.trans h2, g3.trans h3⟩
  case hostLog =>
    obtain ⟨h1, h2⟩ := h
    obtain ⟨g1, g2⟩ := g
    exact ⟨g1.trans h1, g2.trans h2⟩
  all_goals exact Eq.trans g h

theorem UnchangedBut.trans {w w' : List Elem} {s t u : State} (h : UnchangedBut w s t) (g : UnchangedBut w' t u) :
    UnchangedBut (w ++ w') s u := by
  intro e he
  rw [List.mem_append, not_or] at he
  exact Elem.same_trans (h e he.1) (g e he.2)

section
variable (s : State)

theorem UnchangedBut.refl (w : List Elem) : UnchangedBut w s s := by
  intro e _
  cases e <;> simp [Elem.same]

theorem State.setV_frame (x : Reg) (v : Byte) : UnchangedBut [.V] s (s.setV x v) := by
  intro e he
  cases e <;> simp [Elem.same, State.readByte] at he ⊢

theorem State.setRegs_frame (r : Vector Byte 16) : UnchangedBut [.V] s (s.setRegs r) := by
  intro e he
  cases e <;> simp [Elem.same, State.readByte] at he ⊢

theorem State.setI_frame (v : Word) : UnchangedBut [.I] s (s.setI v) := by
  intro e he
  cases e <;> simp [Elem.same, State.readByte] at he ⊢

theorem State.setPc_frame (v : Word) : UnchangedBut [.pc] s (s.setPc v) := by
  intro e he
  cases e <;> simp [Elem.same, State.readByte] at he ⊢

theorem State.setDT_frame (v : Byte) : UnchangedBut [.DT] s (s.setDT v) := by
  intro e he
  cases e <;> simp [Elem.same, State.readByte] at he ⊢

theorem State.setST_frame (v : Byte) : UnchangedBut [.ST] s (s.setST v) := by
  intro e he
  cases e <;> simp [Elem.same, State.readByte] at he ⊢

theorem State.setS_frame (l : List Word) : UnchangedBut [.S] s (s.setS l) := by
  intro e he
  cases e <;> simp [Elem.same, State.readByte] at he ⊢

theorem State.setFB_frame (fb : Framebuffer) : UnchangedBut [.FB] s (s.setFB fb) := by
  intro e he
  cases e <;> simp [Elem.same, State.readByte] at he ⊢

theorem State.writeBytes_frame (a : Nat) (vs : List Byte) : UnchangedBut [.mem] s (s.writeBytes a vs) := by
  intro e he
  cases e <;> simp [Elem.same] at he ⊢

theorem afterByteDraw_frame : UnchangedBut [.draws] s (afterByteDraw s) := by
  intro e he
  cases e <;> simp [Elem.same, State.readByte] at he ⊢

theorem afterKeyDraw_frame (ks : List Key) : UnchangedBut [.draws] s (afterKeyDraw ks s) := by
  cases ks with
  | nil => exact .refl s _
  | cons k ks =>
    intro e he
    cases e <;> simp [Elem.same, State.readByte, afterKeyDraw] at he ⊢

theorem State.advance_frame : UnchangedBut [.pc] s s.advance := s.setPc_frame _

theorem State.skipIf_frame (b : Bool) : UnchangedBut [.pc] s (s.skipIf b) := s.setPc_frame _

theorem State.setVThenFlag_frame (x : Reg) (v f : Byte) : UnchangedBut [.V] s (s.setVThenFlag x v f) :=
  ((s.setV_frame x v).trans ((s.setV x v).setV_frame regVF f)).mono (by simp)

theorem State.setVLogic_frame (x : Reg) (v : Byte) : UnchangedBut [.V] s (s.setVLogic x v) := by
  rcases setVLogic_cases s x v with ⟨-, h⟩ | ⟨-, h⟩ <;> rw [h]
  · exact s.setVThenFlag_frame x v 0
  · exact s.setV_frame x v

/-- A bulk transfer writes `I` only when `LOADSTORE_INCREMENT_I` (R224, R225). -/
theorem State.setI_indexAfterTransfer_frame (x : Reg) (t : State) (hI : t.I = s.I) :
    UnchangedBut (if s.cfg.loadStoreIncrementI then [.I] else []) t (t.setI (indexAfterTransfer x s)) := by
  cases h : s.cfg.loadStoreIncrementI
  · rw [indexAfterTransfer, h, if_neg Bool.false_ne_true, ← hI]
    exact .refl t _
  · exact t.setI_frame _

theorem raiseError_frame {i : Instr} {k : ErrorKind} {info : Option Word} {t : State}
    (h : raiseError i k info s = .next t) : UnchangedBut [.errors, .pc] s t := by
  obtain ⟨u, hu, -, -, frame⟩ := raiseError_spec i k info s
  cases hu.symm.trans h
  exact frame

end

/-! ## The frame of every instruction -/

/-- The elements that an instruction can write under a configuration: 10_state.md R30 to R45 read by instruction. The error
log is in it when the instruction can fail (R301). -/
def elemsWrittenBy (c : Config) : Instr → List Elem
  | .cls => [.FB, .pc]
  | .ret | .call _ => [.errors, .S, .pc]
  | .ldImm _ _ | .addImm _ _ | .ldReg _ _ | .orReg _ _ | .andReg _ _ | .xorReg _ _ | .addReg _ _ | .subReg _ _
  | .shr _ _ | .subn _ _ | .shl _ _ | .ldVxDT _ => [.V, .pc]
  | .rnd _ _ | .ldVxK _ => [.draws, .V, .pc]
  | .drw _ _ _ => [.errors, .FB, .V, .pc]
  | .skp _ | .sknp _ => [.errors, .pc]
  | .ldDT _ => [.DT, .pc]
  | .ldST _ => [.ST, .pc]
  | .ldI _ | .ldF _ => [.I, .pc]
  | .addI _ => [.I, .V, .pc]
  | .ldB _ => [.errors, .mem, .pc]
  | .storeRegs _ => .errors :: .mem :: ((if c.loadStoreIncrementI then [.I] else []) ++ [.pc])
  | .loadRegs _ => .errors :: .V :: ((if c.loadStoreIncrementI then [.I] else []) ++ [.pc])
  | .sys _ | .jp _ | .jpV0 _ | .seImm _ _ | .sneImm _ _ | .seReg _ _ | .sneReg _ _ | .nop8xy8 _ _ | .nop8xy9 _ _
  | .nop8xyA _ _ | .nop8xyB _ _ | .nop8xyC _ _ | .nop8xyD _ _ | .nop8xyF _ _ | .nopEx _ _ | .nopFx _ _ => [.pc]

/-- What an instruction leaves unchanged. -/
theorem exec_frame {i : Instr} {s t : State} (h : exec i s = .next t) : UnchangedBut (elemsWrittenBy s.cfg i) s t := by
  have raised : ∀ {j k info w}, raiseError j k info s = .next t → [.errors, .pc] ⊆ w → UnchangedBut w s t :=
    fun hr hw => (raiseError_frame s hr).mono hw
  cases i
  case cls => cases h; exact (s.setFB_frame _).trans (State.advance_frame _)
  case ret =>
    simp only [exec, execRet] at h
    split at h
    · exact raised h (by simp [elemsWrittenBy])
    · cases h; exact ((s.setS_frame _).trans (State.setPc_frame _ _)).mono (by simp [elemsWrittenBy])
  case call =>
    simp only [exec, execCall] at h
    split at h
    · exact raised h (by simp [elemsWrittenBy])
    · cases h; exact ((s.setS_frame _).trans (State.setPc_frame _ _)).mono (by simp [elemsWrittenBy])
  case ldImm | addImm | ldReg | ldVxDT => cases h; exact (s.setV_frame _ _).trans (State.advance_frame _)
  case orReg | andReg | xorReg => cases h; exact (s.setVLogic_frame _ _).trans (State.advance_frame _)
  case addReg | subReg | shr | subn | shl => cases h; exact (s.setVThenFlag_frame _ _ _).trans (State.advance_frame _)
  case rnd => cases h; exact ((afterByteDraw_frame s).trans (State.setV_frame _ _ _)).trans (State.advance_frame _)
  case ldVxK =>
    simp only [exec, execLdVxK] at h
    split at h <;> cases h
    · exact .refl s _
    · exact ((afterKeyDraw_frame s _).trans (State.setV_frame _ _ _)).trans (State.advance_frame _)
  case drw =>
    simp only [exec, execDrw] at h
    split at h
    · exact raised h (by simp [elemsWrittenBy])
    · cases h
      exact (((s.setFB_frame _).trans (State.setV_frame _ _ _)).trans (State.advance_frame _)).mono (by simp [elemsWrittenBy])
  case skp =>
    simp only [exec, execSkp] at h
    split at h
    · exact raised h (by simp [elemsWrittenBy])
    · cases h; exact (s.skipIf_frame _).mono (by simp [elemsWrittenBy])
  case sknp =>
    simp only [exec, execSknp] at h
    split at h
    · exact raised h (by simp [elemsWrittenBy])
    · cases h; exact (s.skipIf_frame _).mono (by simp [elemsWrittenBy])
  case ldDT => cases h; exact (s.setDT_frame _).trans (State.advance_frame _)
  case ldST => cases h; exact (s.setST_frame _).trans (State.advance_frame _)
  case ldI | ldF => cases h; exact (s.setI_frame _).trans (State.advance_frame _)
  case addI => cases h; exact ((s.setI_frame _).trans (State.setV_frame _ _ _)).trans (State.advance_frame _)
  case ldB =>
    simp only [exec, execLdB] at h
    split at h
    · exact raised h (by simp [elemsWrittenBy])
    · cases h; exact ((s.writeBytes_frame _ _).trans (State.advance_frame _)).mono (by simp [elemsWrittenBy])
  case storeRegs =>
    simp only [exec, execStoreRegs] at h
    split at h
    · exact raised h (by simp [elemsWrittenBy])
    · cases h
      exact (((s.writeBytes_frame _ _).trans (s.setI_indexAfterTransfer_frame _ _ (s.writeBytes_I _ _))).trans
        (State.advance_frame _)).mono (by simp [elemsWrittenBy])
  case loadRegs =>
    simp only [exec, execLoadRegs] at h
    split at h
    · exact raised h (by simp [elemsWrittenBy])
    · cases h
      exact (((s.setRegs_frame _).trans (s.setI_indexAfterTransfer_frame _ _ (s.setRegs_I _))).trans
        (State.advance_frame _)).mono (by simp [elemsWrittenBy])
  case jp | jpV0 => cases h; exact s.setPc_frame _
  case seImm | sneImm | seReg | sneReg => cases h; exact s.skipIf_frame _
  all_goals cases h; exact s.advance_frame

end Sys2Proof.Machine
end

section
/-!
SUPPORT. Who writes each element of the state, who writes VF, and who reads the keypad (10_state.md R30 to R42).
-/

namespace Sys2Proof.Machine

/-! ## The table of written elements, element by element -/

section
variable {c : Config} {i : Instr}

theorem writers_of_mem (h : .mem ∈ elemsWrittenBy c i) : (∃ x, i = .ldB x) ∨ ∃ x, i = .storeRegs x := by
  cases i <;> simp [elemsWrittenBy] at h ⊢

theorem writers_of_I (h : .I ∈ elemsWrittenBy c i) :
    (∃ a, i = .ldI a) ∨ (∃ x, i = .addI x) ∨ (∃ x, i = .ldF x) ∨
      (c.loadStoreIncrementI = true ∧ ((∃ x, i = .storeRegs x) ∨ ∃ x, i = .loadRegs x)) := by
  cases i <;> simp [elemsWrittenBy] at h ⊢ <;> exact h

theorem writers_of_S (h : .S ∈ elemsWrittenBy c i) : (∃ a, i = .call a) ∨ i = .ret := by
  cases i <;> simp [elemsWrittenBy] at h ⊢

theorem writers_of_DT (h : .DT ∈ elemsWrittenBy c i) : ∃ x, i = .ldDT x := by
  cases i <;> simp [elemsWrittenBy] at h ⊢

theorem writers_of_ST (h : .ST ∈ elemsWrittenBy c i) : ∃ x, i = .ldST x := by
  cases i <;> simp [elemsWrittenBy] at h ⊢

theorem writers_of_FB (h : .FB ∈ elemsWrittenBy c i) : i = .cls ∨ ∃ x y n, i = .drw x y n := by
  cases i <;> simp [elemsWrittenBy] at h ⊢

end

/-- Settles O15: the frame of every instruction, and the writers of each element in its table. -/
theorem eachElementIsWrittenOnlyByItsInstructions : Obligations.EachElementIsWrittenOnlyByItsInstructions := by
  intro i s t h
  have frame := exec_frame h
  have kept := exec_keeps h
  refine ⟨fun hB hstore => frame .mem fun hw => ?_, fun hI hadd hF hbulk => frame .I fun hw => ?_,
    fun hcall hret => frame .S fun hw => ?_, fun hDT => frame .DT fun hw => ?_, fun hST => frame .ST fun hw => ?_,
    fun hcls hdrw => frame .FB fun hw => ?_,
    kept.KEY, kept.cfg, kept.rom, ⟨kept.cpuAcc, kept.tmrAcc, kept.running, kept.pass⟩, ⟨kept.script, kept.out⟩⟩
  · obtain ⟨x, e⟩ | ⟨x, e⟩ := writers_of_mem hw
    · exact hB x e
    · exact hstore x e
  · obtain ⟨a, e⟩ | ⟨x, e⟩ | ⟨x, e⟩ | ⟨hinc, ⟨x, e⟩ | ⟨x, e⟩⟩ := writers_of_I hw
    · exact hI a e
    · exact hadd x e
    · exact hF x e
    · exact (hbulk hinc).1 x e
    · exact (hbulk hinc).2 x e
  · obtain ⟨a, e⟩ | e := writers_of_S hw
    · exact hcall a e
    · exact hret e
  · obtain ⟨x, e⟩ := writers_of_DT hw
    exact hDT x e
  · obtain ⟨x, e⟩ := writers_of_ST hw
    exact hST x e
  · obtain e | ⟨x, y, n, e⟩ := writers_of_FB hw
    · exact hcls e
    · exact hdrw x y n e

/-! ## VF (R33) -/

theorem State.setV_VF {x : Reg} (s : State) (v : Byte) (hx : x ≠ regVF) : (s.setV x v).V[regVF] = s.V[regVF] := by
  rw [State.setV_get, if_neg hx.symm]

/-- A logic result that neither goes to VF nor clears it leaves VF alone. -/
theorem State.setVLogic_VF {x : Reg} (s : State) (v : Byte) (hx : x ≠ regVF) (hflag : s.cfg.logicVfReset ≠ true) :
    (s.setVLogic x v).V[regVF] = s.V[regVF] := by
  rw [State.setVLogic, if_neg hflag]
  exact s.setV_VF v hx

theorem afterKeyDraw_V (ks : List Key) (s : State) : (afterKeyDraw ks s).V = s.V := by
  cases ks <;> rfl

/-- A bulk load of V0 to Vx reaches VF only for x = F (R225). -/
theorem loadRegsFrom_VF {x : Reg} (vs : List Byte) (r : Vector Byte 16) (hlen : vs.length = x.val + 1) (hx : x ≠ regVF) :
    (loadRegsFrom vs 0 r)[regVF] = r[regVF] := by
  have hx : x.val ≠ 15 := fun h => hx (Fin.ext h)
  rw [loadRegsFrom_get _ _ _ _ (by omega), if_neg]
  simp only [regVF, Fin.isValue]
  omega

/-- Settles O16: instructions whose frame holds V, and for the rest the destination is another register. -/
theorem vfIsWrittenOnlyByTheListedInstructions : Obligations.VFIsWrittenOnlyByTheListedInstructions := by
  intro i s t h hflags hdrw haddI hlogic hlogicF himm hldReg hDT hK hload
  have ofFrame (hw : .V ∉ elemsWrittenBy s.cfg i) : t.V[regVF] = s.V[regVF] := congrArg (·[regVF]) (exec_frame h .V hw)
  cases i
  case addReg x y => exact absurd rfl (hflags x y).1
  case subReg x y => exact absurd rfl (hflags x y).2.1
  case shr x y => exact absurd rfl (hflags x y).2.2.1
  case subn x y => exact absurd rfl (hflags x y).2.2.2.1
  case shl x y => exact absurd rfl (hflags x y).2.2.2.2
  case drw x y n => exact absurd rfl (hdrw x y n)
  case addI x => exact absurd rfl (haddI x)
  case orReg x y =>
    cases h
    exact s.setVLogic_VF _ (fun e => (hlogicF y).1 (e ▸ rfl)) fun hr => (hlogic hr x y).1 rfl
  case andReg x y =>
    cases h
    exact s.setVLogic_VF _ (fun e => (hlogicF y).2.1 (e ▸ rfl)) fun hr => (hlogic hr x y).2.1 rfl
  case xorReg x y =>
    cases h
    exact s.setVLogic_VF _ (fun e => (hlogicF y).2.2 (e ▸ rfl)) fun hr => (hlogic hr x y).2.2 rfl
  case ldImm x kk => cases h; exact s.setV_VF _ fun e => (himm kk).1 (e ▸ rfl)
  case addImm x kk => cases h; exact s.setV_VF _ fun e => (himm kk).2.1 (e ▸ rfl)
  case rnd x kk => cases h; exact (afterByteDraw s).setV_VF _ fun e => (himm kk).2.2 (e ▸ rfl)
  case ldReg x y => cases h; exact s.setV_VF _ fun e => hldReg y (e ▸ rfl)
  case ldVxDT x => cases h; exact s.setV_VF _ fun e => hDT (e ▸ rfl)
  case ldVxK x =>
    simp only [Completes, exec, execLdVxK] at h
    split at h <;> cases h
    · rfl
    · next k ks _ =>
      exact ((afterKeyDraw ks s).setV_VF _ fun e => hK (e ▸ rfl)).trans (congrArg (·[regVF]) (afterKeyDraw_V ks s))
  case loadRegs x =>
    simp only [Completes, exec, execLoadRegs] at h
    split at h <;> cases h
    · rfl
    · exact loadRegsFrom_VF _ _ (s.readBytes_length _ _) fun e => hload (e ▸ rfl)
  all_goals exact ofFrame (by simp [elemsWrittenBy])

/-! ## The keypad (R41) -/

/-- The state with another keypad. -/
def State.withKeys (s : State) (keys : Vector Bool 16) : State := { s with KEY := keys }

theorem execCall_full {s : State} (a : Addr12) (h : s.S.length = s.cfg.stackDepth) :
    execCall a s = raiseError (.call a) .stackOverflow none s := if_pos h

theorem execCall_room {s : State} (a : Addr12) (h : s.S.length ≠ s.cfg.stackDepth) :
    execCall a s = .next ((s.setS (s.S ++ [s.pc + 2])).setPc (zextAddr a)) := if_neg h

theorem State.setVLogic_withKeys (s : State) (keys : Vector Bool 16) (x : Reg) (v : Byte) :
    (s.withKeys keys).setVLogic x v = (s.setVLogic x v).withKeys keys := by
  rcases setVLogic_cases s x v with ⟨hr, h⟩ | ⟨hr, h⟩ <;> rw [h]
  · exact if_pos hr
  · exact if_neg (Bool.eq_false_iff.mp hr)

/-- Settles O17: instruction by instruction; the branches of those that can fail are chosen by the stack, `I` and registers. -/
theorem onlyThreeInstructionsReadTheKeypad : Obligations.OnlyThreeInstructionsReadTheKeypad := by
  intro i s keys hskp hsknp hK
  change exec i (s.withKeys keys) = onNext (exec i s) (·.withKeys keys)
  have logic (x : Reg) (v : Byte) : Host.Outcome.next (φ := Fault) (ρ := Refusal) ((s.withKeys keys).setVLogic x v).advance =
      .next ((s.setVLogic x v).advance.withKeys keys) := by
    rw [s.setVLogic_withKeys]; rfl
  cases i
  case skp x => exact absurd rfl (hskp x)
  case sknp x => exact absurd rfl (hsknp x)
  case ldVxK x => exact absurd rfl (hK x)
  case orReg x y => exact logic x _
  case andReg x y => exact logic x _
  case xorReg x y => exact logic x _
  case ret => simp only [exec, execRet, State.withKeys]; split <;> rfl
  case call a =>
    by_cases hd : s.S.length = s.cfg.stackDepth
    · rw [exec, exec, execCall_full a hd, execCall_full (s := s.withKeys keys) a hd]; rfl
    · rw [exec, exec, execCall_room a hd, execCall_room (s := s.withKeys keys) a hd]; rfl
  case drw x y n => simp only [exec, execDrw, State.withKeys]; split <;> rfl
  case ldB x => simp only [exec, execLdB, State.withKeys]; split <;> rfl
  case storeRegs x => simp only [exec, execStoreRegs, State.withKeys]; split <;> rfl
  case loadRegs x => simp only [exec, execLoadRegs, State.withKeys]; split <;> rfl
  all_goals rfl

end Sys2Proof.Machine
end

section
/-!
SUPPORT. Accesses past the top of memory (20_memory.md R80), and the fetch of stored bytes (R70, R86).
-/

namespace Sys2Proof.Machine

/-! ## A data access that the range check stops (R80, R145) -/

section
variable {s : State} {a : Word}

theorem execLdB_outOfRange (x : Reg) (h : firstBadAddress s.I 3 = some a) :
    execLdB x s = raiseError (.ldB x) .memoryOutOfRange (some a) s := by rw [execLdB, h]

theorem execStoreRegs_outOfRange (x : Reg) (h : firstBadAddress s.I (x.val + 1) = some a) :
    execStoreRegs x s = raiseError (.storeRegs x) .memoryOutOfRange (some a) s := by rw [execStoreRegs, h]

theorem execLoadRegs_outOfRange (x : Reg) (h : firstBadAddress s.I (x.val + 1) = some a) :
    execLoadRegs x s = raiseError (.loadRegs x) .memoryOutOfRange (some a) s := by rw [execLoadRegs, h]

theorem execDrw_outOfRange (x y : Reg) (n : Nibble) (h : firstBadAddress s.I n.toNat = some a) :
    execDrw x y n s = raiseError (.drw x y n) .memoryOutOfRange (some a) s := by rw [execDrw, h]

end

/-- Settles O37: the range check finds `bad`, so each of the four instructions is the error completion of R145. -/
theorem accessPastTopRaisesMemoryOutOfRange : Obligations.AccessPastTopRaisesMemoryOutOfRange := by
  intro x y n s bad hbad p hp hpos hpast
  have hcheck : firstBadAddress s.I p.2 = some bad := hbad ▸ firstBadAddress_some (by omega) (by omega)
  have hraise : exec p.1 s = raiseError p.1 .memoryOutOfRange (some bad) s := by
    simp only [List.mem_cons, List.not_mem_nil, or_false] at hp
    obtain rfl | rfl | rfl | rfl := hp
    · exact execLdB_outOfRange x hcheck
    · exact execStoreRegs_outOfRange x hcheck
    · exact execLoadRegs_outOfRange x hcheck
    · exact execDrw_outOfRange x y n hcheck
  obtain ⟨t, ht, raised⟩ := raiseError_spec p.1 .memoryOutOfRange (some bad) s
  exact ⟨t, hraise.trans ht, raised⟩

/-! ## The fetch of stored bytes (R70, R86) -/

/-- A tick whose fetch lies inside memory is the fetched instruction (R147). -/
theorem cpuTick_of_fetchable {s : State} (h : s.pc.toNat ≤ lastFetch) : cpuTick s = exec (decodeWord (fetchWord s)) s :=
  if_neg (Nat.not_lt.mpr h)

/-- Two bytes stored at `pc` are the word fetched there, the byte at the lower address as its high byte. -/
theorem fetchWord_writeBytes_pc {s : State} (hi lo : Byte) (hwf : s.mem.wf s.cfg = true) (hpc : s.pc.toNat ≤ lastFetch) :
    fetchWord (s.writeBytes s.pc.toNat [hi, lo]) = wordOfBytes hi lo := by
  have hroom : s.pc.toNat + [hi, lo].length ≤ memSize := Nat.add_le_add_right hpc 2
  simp [fetchWord, State.readByte_writeBytes hwf hroom]

/-- Settles O39: the store leaves `pc` fetchable, and the fetched word is the stored one. -/
theorem fetchSeesStoredBytes : Obligations.FetchSeesStoredBytes := by
  intro s hi lo hwf hpc
  rw [cpuTick_of_fetchable (s := s.writeBytes s.pc.toNat [hi, lo]) hpc, fetchWord_writeBytes_pc hi lo hwf hpc]

end Sys2Proof.Machine
end

section
/-!
SUPPORT. The decoder and the encoder undo each other (30_encoding.md R101 to R108), and the decoder's choice of a row of
the opcode table (INDEX.md).
-/

namespace Sys2Proof

/-! ## A word is the form of its own fields (R101) -/

/-- The mask FFF0 clears the `n` of a form (R107). -/
theorem formXYN_and_mask (f : BitVec 4) (x y : Reg) (n : Nibble) : formXYN f x y n &&& 0xFFF0#16 = formXYN f x y 0x0 := by
  have hmask : (0xFFF0#16 : Word) = BitVec.allOnes 4 ++ BitVec.allOnes 4 ++ BitVec.allOnes 4 ++ 0#4 := rfl
  rw [hmask, formXYN, BitVec.and_append, BitVec.and_append, BitVec.and_append]
  simp only [BitVec.and_allOnes, BitVec.and_zero]
  rfl

section
variable {w : Word} {f : BitVec 4}

theorem formA_of_family (h : fieldFamily w = f) : formA f (fieldNNN w) = w := by
  apply BitVec.eq_of_toNat_eq
  rw [formA_toNat, ← h, fieldFamily_toNat, fieldNNN_toNat]
  omega

theorem formXKK_of_family (h : fieldFamily w = f) : formXKK f (fieldX w) (fieldKK w) = w := by
  apply BitVec.eq_of_toNat_eq
  rw [formXKK_toNat, ← h, fieldFamily_toNat, fieldX_val, fieldKK_toNat]
  omega

theorem formXYN_of_family (h : fieldFamily w = f) : formXYN f (fieldX w) (fieldY w) (fieldN w) = w := by
  apply BitVec.eq_of_toNat_eq
  rw [formXYN_toNat, ← h, fieldFamily_toNat, fieldX_val, fieldY_val, fieldN_toNat]
  omega

theorem formXYN_zero_of_family (h : fieldFamily w = f) : formXYN f (fieldX w) (fieldY w) 0x0 = w &&& 0xFFF0#16 := by
  rw [← formXYN_and_mask f _ _ (fieldN w), formXYN_of_family h]

end

/-! ## Family 0: the address operand decides (R106) -/

section
variable (nnn : Addr12)

theorem decodeFamily0_formA :
    decodeFamily0 (formA 0x0 nnn) = if nnn = 0x0E0#12 then .cls else if nnn = 0x0EE#12 then .ret else .sys nnn := by
  have formA_eq_iff (a : Addr12) : formA 0x0 nnn = formA 0x0 a ↔ nnn = a :=
    ⟨fun e => by rw [← fieldNNN_formA 0x0 nnn, e, fieldNNN_formA], fun e => e ▸ rfl⟩
  have hcls : formA 0x0 nnn = 0x00E0#16 ↔ nnn = 0x0E0#12 := formA_eq_iff 0x0E0
  have hret : formA 0x0 nnn = 0x00EE#16 ↔ nnn = 0x0EE#12 := formA_eq_iff 0x0EE
  simp only [decodeFamily0, hcls, hret, fieldNNN_formA]

theorem decodeFamily0_sys {nnn : Addr12} (h : WellFormed (.sys nnn) = true) : decodeFamily0 (formA 0x0 nnn) = .sys nnn := by
  simp only [WellFormed, Bool.and_eq_true, bne_iff_ne] at h
  rw [decodeFamily0_formA, if_neg h.1, if_neg h.2]

theorem wellFormed_decodeFamily0 : WellFormed (decodeFamily0 (formA 0x0 nnn)) = true := by
  rw [decodeFamily0_formA]
  split_ifs with hcls hret
  · rfl
  · rfl
  · simp only [WellFormed, bne_iff_ne.mpr hcls, bne_iff_ne.mpr hret, Bool.and_self]

theorem encode_decodeFamily0 : encode (decodeFamily0 (formA 0x0 nnn)) = formA 0x0 nnn := by
  rw [decodeFamily0_formA]
  split_ifs with hcls hret
  · rw [hcls]; rfl
  · rw [hret]; rfl
  · rfl

end

/-! ## Families 8, E and F: the selector decides (R105, R108) -/

section
variable {w : Word}

theorem wellFormed_decodeFamily8 : WellFormed (decodeFamily8 w) = true := by
  unfold decodeFamily8
  split <;> rfl

theorem mask_decodeFamily8 : (rowOf (decodeFamily8 w)).mask = 0xF00F := by
  unfold decodeFamily8
  split <;> rfl

theorem encode_decodeFamily8 : encode (decodeFamily8 w) = formXYN 0x8 (fieldX w) (fieldY w) (fieldN w) := by
  have hlt : (fieldN w).toNat < 16 := (fieldN w).isLt
  unfold decodeFamily8
  interval_cases h : (fieldN w).toNat <;>
    exact congrArg (formXYN 0x8 (fieldX w) (fieldY w)) (BitVec.eq_of_toNat_eq h.symm)

/-- An assigned selector of family E: the row of the instruction fixes it. -/
theorem decodeFamilyE_assigned (h : fieldKK w ∈ assignedE) :
    WellFormed (decodeFamilyE w) = true ∧ (rowOf (decodeFamilyE w)).mask = 0xF0FF := by
  simp only [assignedE, List.mem_cons, List.not_mem_nil, or_false] at h
  obtain h | h := h <;> rw [decodeFamilyE, h] <;> exact ⟨rfl, rfl⟩

theorem decodeFamilyE_unassigned (h : fieldKK w ∉ assignedE) : decodeFamilyE w = .nopEx (fieldX w) (fieldKK w) := by
  simp [assignedE, ← BitVec.toNat_inj] at h
  simp [decodeFamilyE, h]

/-- An assigned selector of family F: the row of the instruction fixes it. -/
theorem decodeFamilyF_assigned (h : fieldKK w ∈ assignedF) :
    WellFormed (decodeFamilyF w) = true ∧ (rowOf (decodeFamilyF w)).mask = 0xF0FF := by
  simp only [assignedF, List.mem_cons, List.not_mem_nil, or_false] at h
  obtain h | h | h | h | h | h | h | h | h := h <;> rw [decodeFamilyF, h] <;> exact ⟨rfl, rfl⟩

theorem decodeFamilyF_unassigned (h : fieldKK w ∉ assignedF) : decodeFamilyF w = .nopFx (fieldX w) (fieldKK w) := by
  simp [assignedF, ← BitVec.toNat_inj] at h
  simp [decodeFamilyF, h]

@[simp] theorem wellFormed_nopEx_iff {x : Reg} {kk : Byte} : WellFormed (.nopEx x kk) = true ↔ kk ∉ assignedE := by
  simp [WellFormed]

@[simp] theorem wellFormed_nopFx_iff {x : Reg} {kk : Byte} : WellFormed (.nopFx x kk) = true ↔ kk ∉ assignedF := by
  simp [WellFormed]

theorem wellFormed_decodeFamilyE : WellFormed (decodeFamilyE w) = true := by
  by_cases h : fieldKK w ∈ assignedE
  · exact (decodeFamilyE_assigned h).1
  · rw [decodeFamilyE_unassigned h]
    exact wellFormed_nopEx_iff.mpr h

theorem encode_decodeFamilyE : encode (decodeFamilyE w) = formXKK 0xE (fieldX w) (fieldKK w) := by
  unfold decodeFamilyE
  split
  case h_3 => rfl
  all_goals next h => exact congrArg (formXKK 0xE (fieldX w)) (BitVec.eq_of_toNat_eq h.symm)

theorem wellFormed_decodeFamilyF : WellFormed (decodeFamilyF w) = true := by
  by_cases h : fieldKK w ∈ assignedF
  · exact (decodeFamilyF_assigned h).1
  · rw [decodeFamilyF_unassigned h]
    exact wellFormed_nopFx_iff.mpr h

theorem encode_decodeFamilyF : encode (decodeFamilyF w) = formXKK 0xF (fieldX w) (fieldKK w) := by
  unfold decodeFamilyF
  split
  case h_10 => rfl
  all_goals next h => exact congrArg (formXKK 0xF (fieldX w)) (BitVec.eq_of_toNat_eq h.symm)

/-! ## The family decides (R105) -/

theorem decodeWord_family0 (h : fieldFamily w = 0x0#4) : decodeWord w = decodeFamily0 w := by rw [decodeWord, h]; rfl

theorem decodeWord_family5 (h : fieldFamily w = 0x5#4) : decodeWord w = .seReg (fieldX w) (fieldY w) := by
  rw [decodeWord, h]; rfl

theorem decodeWord_family8 (h : fieldFamily w = 0x8#4) : decodeWord w = decodeFamily8 w := by rw [decodeWord, h]; rfl

theorem decodeWord_family9 (h : fieldFamily w = 0x9#4) : decodeWord w = .sneReg (fieldX w) (fieldY w) := by
  rw [decodeWord, h]; rfl

theorem decodeWord_familyE (h : fieldFamily w = 0xE#4) : decodeWord w = decodeFamilyE w := by rw [decodeWord, h]; rfl

theorem decodeWord_familyF (h : fieldFamily w = 0xF#4) : decodeWord w = decodeFamilyF w := by rw [decodeWord, h]; rfl

end

theorem wellFormed_decodeWord (w : Word) : WellFormed (decodeWord w) = true := by
  unfold decodeWord
  split
  case h_1 h =>
    rw [← formA_of_family (f := 0x0) (BitVec.eq_of_toNat_eq h)]
    exact wellFormed_decodeFamily0 _
  case h_9 => exact wellFormed_decodeFamily8
  case h_15 => exact wellFormed_decodeFamilyE
  case h_16 => exact wellFormed_decodeFamilyF
  all_goals rfl

/-- Families 5 and 9 ignore `n` (R107); every other word is kept. The cases are the families in order, 0 to F. -/
theorem encode_decodeWord {w : Word} (h5 : fieldFamily w ≠ 0x5#4) (h9 : fieldFamily w ≠ 0x9#4) :
    encode (decodeWord w) = w := by
  have hlt : (fieldFamily w).toNat < 16 := (fieldFamily w).isLt
  unfold decodeWord
  interval_cases h : (fieldFamily w).toNat
  · rw [← formA_of_family (f := 0x0) (BitVec.eq_of_toNat_eq h)]
    exact encode_decodeFamily0 _
  · exact formA_of_family (BitVec.eq_of_toNat_eq h)
  · exact formA_of_family (BitVec.eq_of_toNat_eq h)
  · exact formXKK_of_family (BitVec.eq_of_toNat_eq h)
  · exact formXKK_of_family (BitVec.eq_of_toNat_eq h)
  · exact absurd (BitVec.eq_of_toNat_eq h) h5
  · exact formXKK_of_family (BitVec.eq_of_toNat_eq h)
  · exact formXKK_of_family (BitVec.eq_of_toNat_eq h)
  · exact encode_decodeFamily8.trans (formXYN_of_family (BitVec.eq_of_toNat_eq h))
  · exact absurd (BitVec.eq_of_toNat_eq h) h9
  · exact formA_of_family (BitVec.eq_of_toNat_eq h)
  · exact formA_of_family (BitVec.eq_of_toNat_eq h)
  · exact formXKK_of_family (BitVec.eq_of_toNat_eq h)
  · exact formXYN_of_family (BitVec.eq_of_toNat_eq h)
  · exact encode_decodeFamilyE.trans (formXKK_of_family (BitVec.eq_of_toNat_eq h))
  · exact encode_decodeFamilyF.trans (formXKK_of_family (BitVec.eq_of_toNat_eq h))

theorem decodeWord_encode {i : Instr} (h : WellFormed i = true) : decodeWord (encode i) = i := by
  cases i
  case cls | ret => rfl
  case sys nnn => exact (decodeWord_family0 (fieldFamily_formA _ _)).trans (decodeFamily0_sys h)
  case nopEx x kk =>
    have hfam : fieldFamily (formXKK 0xE x kk) = 0xE#4 := fieldFamily_formXKK _ _ _
    have hkk : fieldKK (formXKK 0xE x kk) ∉ assignedE := by simpa using h
    rw [encode, decodeWord_familyE hfam, decodeFamilyE_unassigned hkk, fieldX_formXKK, fieldKK_formXKK]
  case nopFx x kk =>
    have hfam : fieldFamily (formXKK 0xF x kk) = 0xF#4 := fieldFamily_formXKK _ _ _
    have hkk : fieldKK (formXKK 0xF x kk) ∉ assignedF := by simpa using h
    rw [encode, decodeWord_familyF hfam, decodeFamilyF_unassigned hkk, fieldX_formXKK, fieldKK_formXKK]
  case skp | sknp => simp [encode, decodeWord, decodeFamilyE]
  case ldVxDT | ldVxK | ldDT | ldST | addI | ldF | ldB | storeRegs | loadRegs => simp [encode, decodeWord, decodeFamilyF]
  case ldReg | orReg | andReg | xorReg | addReg | subReg | shr | subn | shl | nop8xy8 | nop8xy9 | nop8xyA | nop8xyB |
      nop8xyC | nop8xyD | nop8xyF => simp [encode, decodeWord, decodeFamily8]
  all_goals simp [encode, decodeWord]

/-- Settles O1: the two bytes are the word of the instruction again (R70), and the word decodes to the instruction. -/
theorem encodedInstructionDecodesToItself : Obligations.EncodedInstructionDecodesToItself := by
  intro i rest h
  change Except.ok (decodeWord (wordOfBytes (highByte (encode i)) (lowByte (encode i))), rest) = _
  rw [wordOfBytes_high_low, decodeWord_encode h]

/-- Settles O2: the families that ignore `n` encode it as 0, the others encode the word itself. -/
theorem decodingLosesOnlyTheIgnoredNibble : Obligations.DecodingLosesOnlyTheIgnoredNibble := by
  intro w
  refine ⟨wellFormed_decodeWord w, ?_⟩
  split_ifs with h
  · obtain h5 | h9 := h
    · rw [decodeWord_family5 h5]; exact formXYN_zero_of_family h5
    · rw [decodeWord_family9 h9]; exact formXYN_zero_of_family h9
  · obtain ⟨h5, h9⟩ := not_or.mp h
    exact encode_decodeWord h5 h9

/-! ## The opcode table (INDEX.md, R105) -/

namespace Laws.RowFits

/-- The word of every instruction has the fixed bits of the instruction's row. -/
theorem statement : ∀ i : Instr, Statement i
  | .cls => cls | .ret => ret
  | .sys a => sys a | .jp a => jp a | .call a => call a | .ldI a => ldI a | .jpV0 a => jpV0 a
  | .seImm x kk => seImm x kk | .sneImm x kk => sneImm x kk | .ldImm x kk => ldImm x kk | .addImm x kk => addImm x kk
  | .rnd x kk => rnd x kk | .nopEx x kk => nopEx x kk | .nopFx x kk => nopFx x kk
  | .seReg x y => seReg x y | .sneReg x y => sneReg x y | .drw x y n => drw x y n
  | .ldReg x y => ldReg x y | .orReg x y => orReg x y | .andReg x y => andReg x y | .xorReg x y => xorReg x y
  | .addReg x y => addReg x y | .subReg x y => subReg x y | .shr x y => shr x y | .subn x y => subn x y | .shl x y => shl x y
  | .nop8xy8 x y => nop8xy8 x y | .nop8xy9 x y => nop8xy9 x y | .nop8xyA x y => nop8xyA x y | .nop8xyB x y => nop8xyB x y
  | .nop8xyC x y => nop8xyC x y | .nop8xyD x y => nop8xyD x y | .nop8xyF x y => nop8xyF x y
  | .skp x => skp x | .sknp x => sknp x | .ldVxDT x => ldVxDT x | .ldVxK x => ldVxK x | .ldDT x => ldDT x | .ldST x => ldST x
  | .addI x => addI x | .ldF x => ldF x | .ldB x => ldB x | .storeRegs x => storeRegs x | .loadRegs x => loadRegs x

end Laws.RowFits

theorem fits_decodeWord (w : Word) : (rowOf (decodeWord w)).fits w = true := by
  by_cases h5 : fieldFamily w = 0x5#4
  · rw [decodeWord_family5 h5]
    exact Laws.RowFits.fits_family (by rw [h5]; rfl)
  by_cases h9 : fieldFamily w = 0x9#4
  · rw [decodeWord_family9 h9]
    exact Laws.RowFits.fits_family (by rw [h9]; rfl)
  have h : (rowOf (decodeWord w)).fits (encode (decodeWord w)) = true := Laws.RowFits.statement (decodeWord w)
  rwa [encode_decodeWord h5 h9] at h

theorem rowOf_mem_opcodeRows (i : Instr) : rowOf i ∈ opcodeRows := by
  cases i <;> simp [rowOf, opcodeRows]

/-- Every row fixes the family. -/
theorem family_mask_and_mask : ∀ r ∈ opcodeRows, 0xF000 &&& r.mask = 0xF000 := by decide

/-- The rows by what they fix: the family alone, also `n`, also `kk`, or the whole word. -/
theorem opcodeRows_by_mask : ∀ r ∈ opcodeRows,
    r.mask = 0xF000 ∨ (r.mask = 0xF00F ∧ fieldFamily r.pattern = 0x8) ∨
      (r.mask = 0xF0FF ∧ (fieldFamily r.pattern = 0xE ∧ fieldKK r.pattern ∈ assignedE ∨
        fieldFamily r.pattern = 0xF ∧ fieldKK r.pattern ∈ assignedF)) ∨
      (r.mask = 0xFFFF ∧ (r.pattern = 0x00E0 ∨ r.pattern = 0x00EE)) := by decide

section
variable {r r' : OpcodeRow} {w : Word}

theorem OpcodeRow.fits_iff : r.fits w = true ↔ w &&& r.mask = r.pattern := beq_iff_eq

/-- A word fits at most one row of a given mask. -/
theorem OpcodeRow.eq_of_fits_of_mask_eq (h : r.fits w = true) (h' : r'.fits w = true) (hmask : r.mask = r'.mask) : r = r' := by
  obtain ⟨p, m⟩ := r
  obtain ⟨p', m'⟩ := r'
  obtain rfl : m = m' := hmask
  obtain rfl : w &&& m = p := OpcodeRow.fits_iff.mp h
  obtain rfl : w &&& m = p' := OpcodeRow.fits_iff.mp h'
  rfl

theorem fieldFamily_and (w m : Word) : fieldFamily (w &&& m) = fieldFamily w &&& fieldFamily m := BitVec.extractLsb'_and

theorem fieldKK_and (w m : Word) : fieldKK (w &&& m) = fieldKK w &&& fieldKK m := BitVec.extractLsb'_and

/-- The pattern of a fitting row has the word's family when the mask covers the family. -/
theorem fieldFamily_pattern (h : r.fits w = true) (hm : fieldFamily r.mask = BitVec.allOnes 4) :
    fieldFamily r.pattern = fieldFamily w := by
  rw [← OpcodeRow.fits_iff.mp h, fieldFamily_and, hm, BitVec.and_allOnes]

theorem fieldKK_pattern (h : r.fits w = true) (hm : fieldKK r.mask = BitVec.allOnes 8) : fieldKK r.pattern = fieldKK w := by
  rw [← OpcodeRow.fits_iff.mp h, fieldKK_and, hm, BitVec.and_allOnes]

/-- A fitting row fixes the family alone, or its mask is that of the decoded row. -/
theorem mask_eq_of_fits (hr : r ∈ opcodeRows) (h : r.fits w = true) :
    r.mask = 0xF000 ∨ r.mask = (rowOf (decodeWord w)).mask := by
  have family := fieldFamily_pattern h
  obtain hm | ⟨hm, hf⟩ | ⟨hm, hk⟩ | ⟨hm, hp⟩ := opcodeRows_by_mask r hr
  · exact .inl hm
  · rw [family (by rw [hm]; rfl)] at hf
    rw [hm, decodeWord_family8 hf]
    exact .inr mask_decodeFamily8.symm
  · rw [family (by rw [hm]; rfl), fieldKK_pattern h (by rw [hm]; rfl)] at hk
    rw [hm]
    obtain ⟨hf, hkk⟩ | ⟨hf, hkk⟩ := hk
    · rw [decodeWord_familyE hf]
      exact .inr (decodeFamilyE_assigned hkk).2.symm
    · rw [decodeWord_familyF hf]
      exact .inr (decodeFamilyF_assigned hkk).2.symm
  · have hw : w = r.pattern := by rw [← OpcodeRow.fits_iff.mp h, hm]; exact BitVec.and_allOnes.symm
    rw [hm]
    obtain hp | hp := hp <;> rw [hw, hp] <;> exact .inr rfl

end

/-- Settles O3: a fitting row fixes the family alone, which every row does, or as much as the decoded row; rows of one mask
that fit one word are equal. -/
theorem decoderSelectsTheMostSpecificTableRow : Obligations.DecoderSelectsTheMostSpecificTableRow := by
  intro w
  have hmem := rowOf_mem_opcodeRows (decodeWord w)
  have hfits := fits_decodeWord w
  refine ⟨hmem, hfits, fun r hr h => ⟨?_, OpcodeRow.eq_of_fits_of_mask_eq h hfits⟩⟩
  obtain hm | hm := mask_eq_of_fits hr h
  · rw [hm]; exact family_mask_and_mask _ hmem
  · rw [hm]; exact BitVec.and_self

end Sys2Proof
end

section
/-!
SUPPORT. The CPU tick (40_cpu_cycle.md R140 to R147): the step that is due runs the decoded instruction, a failed fetch logs and
stays, an unassigned word is a no-op, and an error record names the fetched word.
-/

namespace Sys2Proof.Machine

/-! ## What a CPU tick logs (R145) -/

/-- The word of the decoded instruction is the decoded word, unless the decoder ignored its low nibble (R107). -/
theorem encode_decodeWord_of_noIgnoredNibble {w : Word} (h : ∀ x y, decodeWord w ≠ .seReg x y ∧ decodeWord w ≠ .sneReg x y) :
    encode (decodeWord w) = w := by
  apply encode_decodeWord
  · exact fun h5 => (h _ _).1 (decodeWord_family5 h5)
  · exact fun h9 => (h _ _).2 (decodeWord_family9 h9)

/-- Settles O7: the tick is the decoded instruction, whose record carries the word it encodes to; the two skips whose word the
decoder does not keep never raise. -/
theorem errorRecordNamesTheFetchedWord : Obligations.ErrorRecordNamesTheFetchedWord := by
  intro s t hpc h
  rw [cpuTick_of_fetchable hpc] at h
  obtain same | ⟨r, hlog, hrpc, hword, hkind, hnext, hskip⟩ := (exec_can h).errors
  · exact .inl same
  · rw [encode_decodeWord_of_noIgnoredNibble hskip] at hword
    exact .inr ⟨r, hlog, hrpc, hword, hkind, hnext⟩

/-! ## A fetch past the top of memory (R143) -/

theorem State.logError_frame (s : State) (r : ErrorRecord) : UnchangedBut [.errors] s (s.logError r) := by
  intro e he
  cases e <;> simp [Elem.same, State.readByte] at he ⊢

theorem cpuTick_of_pastTop {s : State} (h : lastFetch < s.pc.toNat) : cpuTick s = .next (s.logError (fetchErrorRecord s)) := if_pos h

/-- Settles O6: the tick only logs the record of the failed fetch. -/
theorem fetchPastTopLogsAndStays : Obligations.FetchPastTopLogsAndStays := fun s hpc =>
  ⟨_, cpuTick_of_pastTop hpc, s.logError_errors _, s.logError_frame _⟩

/-! ## Unassigned words (R146) -/

/-- Settles O19: each of the nine rows has the default no-op as its meaning. -/
theorem unassignedWordsAreNoOps : Obligations.UnassignedWordsAreNoOps := by
  intro i s hi
  have hnoop : exec i s = defaultNoOp s := by
    obtain ⟨x, y, rfl | rfl | rfl | rfl | rfl | rfl | rfl⟩ | ⟨x, kk, rfl | rfl⟩ := hi <;> rfl
  exact ⟨s.advance, hnoop, s.advance_pc, s.advance_frame⟩

/-! ## The step that runs an instruction (R147, R322) -/

theorem step_of_noScript {s : State} (h : s.host.script = []) : step s = freeStep s := by rw [step, machineStep, h]

/-- Beginning a pass touches the scheduler's state alone (R322). -/
theorem beginPass_frame (e : Nat) (s : State) : UnchangedBut [.sched] s (beginPass e s) := by
  obtain ⟨-, h⟩ | ⟨-, h⟩ := beginPass_cases e s <;> rw [h]
  · exact .refl s _
  · intro e he
    cases e <;> simp [Elem.same, State.readByte] at he ⊢

theorem regularPass_frame (s : State) : UnchangedBut [.sched] s (regularPass s) := by
  obtain ⟨-, h⟩ | ⟨-, h⟩ := regularPass_cases s <;> rw [h]
  · exact beginPass_frame cpuPeriod s
  · exact .refl s _

/-- The fetched word depends on `pc` and memory alone (R100). -/
theorem fetchWord_congr {s t : State} (hpc : t.pc = s.pc) (hmem : Elem.same s t .mem) : fetchWord t = fetchWord s := by
  rw [fetchWord, hpc, hmem, hmem, fetchWord]

/-- A pass is in progress that owes a CPU tick, on a running core (R322). -/
def TickDue (s : State) : Prop := (∃ e, s.pass = some e) ∧ s.running = true ∧ cpuPeriod ≤ s.cpuAcc

theorem passTick_of_tickDue {s : State} (h : TickDue s) : passTick s = onNext (cpuTick s) spendCpu := by
  obtain ⟨⟨e, hpass⟩, hrun, howed⟩ := h
  simp only [passTick, hpass, if_pos hrun, if_pos howed]

/-- The regular call owes one CPU period, so after it a tick is due, as it is in a pass that still owes one (R347). -/
theorem regularPass_tickDue {s : State} (hrun : s.running = true) (hdue : s.pass = none ∨ cpuPeriod ≤ s.cpuAcc) :
    TickDue (regularPass s) := by
  obtain ⟨-, hregular⟩ | ⟨hpass, hregular⟩ := regularPass_cases s <;> rw [hregular]
  · obtain ⟨hstopped, -⟩ | ⟨-, hbegin⟩ := beginPass_cases cpuPeriod s
    · exact absurd hrun (Bool.eq_false_iff.mp hstopped)
    · rw [hbegin]
      exact ⟨⟨_, rfl⟩, hrun, Nat.le_add_left _ _⟩
  · exact ⟨Option.ne_none_iff_exists'.mp hpass, hrun, hdue.resolve_left hpass⟩

theorem onNext_onNext (o : Host.Outcome State Fault Refusal) (f g : State → State) :
    onNext (onNext o f) g = onNext o (fun t => g (f t)) := by
  cases o <;> rfl

/-- Settles O5: after the regular call a CPU tick is due, and `pc` and memory are as before, so it runs the instruction
decoded there. -/
theorem stepRunsTheDecodedInstruction : Obligations.StepRunsTheDecodedInstruction := by
  intro s i hscript hrun hpc hdue hdecode
  have hi : decodeWord (fetchWord s) = i := congrArg Prod.fst (Except.ok.inj hdecode)
  have frame := regularPass_frame s
  have hpcSame : (regularPass s).pc = s.pc := frame .pc (by decide)
  have hword : fetchWord (regularPass s) = fetchWord s := fetchWord_congr hpcSame (frame .mem (by decide))
  have htick : cpuTick (regularPass s) = exec i (regularPass s) := by
    rw [cpuTick_of_fetchable (hpcSame ▸ hpc), hword, hi]
  calc step s = onNext (passTick (regularPass s)) settle := step_of_noScript hscript
    _ = onNext (onNext (exec i (regularPass s)) spendCpu) settle := by
      rw [passTick_of_tickDue (regularPass_tickDue hrun hdue), htick]
    _ = onNext (exec i (regularPass s)) (fun t => settle (spendCpu t)) := onNext_onNext _ _ _

end Sys2Proof.Machine
end

section
/-!
SUPPORT. Control flow (41_control_flow.md R160 to R168): the no-op, the jumps, the skips, and call and return with their stack errors.
-/

namespace Sys2Proof.Machine

/-! ## The no-op and the jumps (R160, R162, R168) -/

/-- Settles O18: the meaning of `SYS` is the advance alone. -/
theorem sysIsANoOp : Obligations.SysIsANoOp := fun _ s => ⟨s.advance, rfl, s.advance_pc, s.advance_frame⟩

/-- Settles O21: the 12-bit address is zero-extended, so `pc` has its value. -/
theorem jpSetsPc : Obligations.JpSetsPc := fun nnn s => ⟨s.setPc (zextAddr nnn), rfl, zextAddr_toNat nnn, s.setPc_frame _⟩

/-- The sum of a 12-bit address and a byte does not wrap in 16 bits (R168, D35). -/
theorem jumpTarget_toNat (nnn : Addr12) (s : State) : (jumpTarget nnn s).toNat = nnn.toNat + (s.V[(0 : Reg)]).toNat := by
  rw [jumpTarget, BitVec.toNat_add, zextAddr_toNat, BitVec.toNat_setWidth_of_le (by decide)]
  omega

/-- Settles O25: the jump target is the plain sum, of at most 0xFFF and 0xFF. -/
theorem jpV0AddsV0 : Obligations.JpV0AddsV0 := by
  intro nnn s
  have hsum := jumpTarget_toNat nnn s
  have hbound : (jumpTarget nnn s).toNat ≤ 0x10FE := by omega
  exact ⟨s.setPc (jumpTarget nnn s), rfl, hsum, hbound, s.setPc_frame _⟩

/-! ## The skips (R164 to R167) -/

/-- An instruction whose meaning is a skip on a test moves `pc` by 4 when the tested condition holds, else by 2. -/
theorem completes_of_skipIf {i : Instr} {s : State} {taken : Bool} {p : Prop} [Decidable p]
    (hexec : exec i s = .next (s.skipIf taken)) (htest : taken = true ↔ p) :
    ∃ t, Completes i s t ∧ t.pc = (if p then s.pc + 4 else s.pc + 2) ∧ UnchangedBut [.pc] s t :=
  ⟨s.skipIf taken, hexec, if_congr htest rfl rfl, s.skipIf_frame taken⟩

/-- Settles O24: each skip tests equality or its negation. -/
theorem skipsMovePcByFourOrTwo : Obligations.SkipsMovePcByFourOrTwo := fun _ _ _ _ =>
  ⟨completes_of_skipIf rfl beq_iff_eq, completes_of_skipIf rfl bne_iff_ne,
   completes_of_skipIf rfl beq_iff_eq, completes_of_skipIf rfl bne_iff_ne⟩

/-! ## Call and return (R161, R163) -/

theorem execRet_nonempty {s : State} {below : List Word} {a : Word} (h : s.S = below ++ [a]) :
    execRet s = .next ((s.setS below).setPc a) := by
  simp [execRet, h]

theorem execRet_empty {s : State} (h : s.S = []) : execRet s = raiseError .ret .stackUnderflow none s := by
  simp [execRet, h]

theorem State.setS_setPc_frame (s : State) (l : List Word) (v : Word) : UnchangedBut [.pc, .S] s ((s.setS l).setPc v) :=
  ((s.setS_frame l).trans (State.setPc_frame _ v)).mono (by decide)

/-- Settles O20: `RET` pops the last entry, or is the error completion of R145 when there is none. -/
theorem retPopsOrUnderflows : Obligations.RetPopsOrUnderflows := by
  intro s
  constructor
  · intro below a h
    exact ⟨_, execRet_nonempty h, rfl, rfl, s.setS_setPc_frame below a⟩
  · intro h
    obtain ⟨t, ht, raised⟩ := raiseError_spec .ret .stackUnderflow none s
    exact ⟨t, (execRet_empty h).trans ht, raised⟩

/-- Settles O22: `CALL` pushes unless the stack holds exactly `STACK_DEPTH` entries; then it is the error completion of R145. -/
theorem callPushesOrOverflows : Obligations.CallPushesOrOverflows := by
  intro nnn s
  constructor
  · intro h
    exact ⟨_, execCall_room nnn h, zextAddr_toNat nnn, rfl, s.setS_setPc_frame _ _⟩
  · intro h
    obtain ⟨t, ht, raised⟩ := raiseError_spec (.call nnn) .stackOverflow none s
    exact ⟨t, (execCall_full nnn h).trans ht, raised⟩

/-- An element that ends as it began leaves the list of what was written. -/
theorem UnchangedBut.drop_restored {w w' : List Elem} {s t : State} {e : Elem} (h : UnchangedBut w s t) (he : e.same s t)
    (hw : w ⊆ e :: w') : UnchangedBut w' s t := by
  intro d hd
  by_cases hde : d = e
  · exact hde ▸ he
  · exact h.mono hw d (List.not_mem_cons_of_ne_of_not_mem hde hd)

/-- Settles O23: `RET` pops what `CALL` pushed, so the stack is as it was and of the two written elements only `pc` differs. -/
theorem callThenRetReturnsAfterTheCall : Obligations.CallThenRetReturnsAfterTheCall := by
  intro nnn s hroom
  obtain ⟨t, hcall, -, hpushed, callFrame⟩ := (callPushesOrOverflows nnn s).1 hroom
  obtain ⟨u, hret, hpc, hpopped, retFrame⟩ := (retPopsOrUnderflows t).1 s.S (s.pc + 2) hpushed
  exact ⟨t, u, hcall, hret, hpc, (callFrame.trans retFrame).drop_restored (e := .S) hpopped (by decide)⟩

end Sys2Proof.Machine
end

section
/-!
SUPPORT. Register loads and arithmetic (42_register_alu.md R190 to R201): one completion lemma per way of writing a result (`setV`,
`setVThenFlag`, `setVLogic`), stated for any property of the values written; an instruction then owes only its arithmetic.
-/

namespace Sys2Proof.Machine

/-! ## Reads after writes -/

section
variable (s : State) (x : Reg) (v f : Byte)

theorem State.setV_get_self : (s.setV x v).V[x] = v := by rw [s.setV_get, if_pos rfl]

theorem State.setV_regsBut : RegsBut x x s (s.setV x v) := fun r hr _ => by rw [s.setV_get, if_neg hr]

theorem State.setVThenFlag_get_VF : (s.setVThenFlag x v f).V[regVF] = f := (s.setV x v).setV_get_self regVF f

theorem State.setVThenFlag_get_dest (hx : x ≠ regVF) : (s.setVThenFlag x v f).V[x] = v := by
  rw [State.setVThenFlag, State.setV_get, if_neg hx, s.setV_get_self]

theorem State.setVThenFlag_regsBut : RegsBut x regVF s (s.setVThenFlag x v f) := fun r hx hVF => by
  rw [State.setVThenFlag, State.setV_get, if_neg hVF, s.setV_regsBut x v r hx hx]

end

theorem RegsBut.widen {x : Reg} {s t : State} (h : RegsBut x x s t) (y : Reg) : RegsBut x y s t := fun r hx _ => h r hx hx

/-! ## Completions -/

section
variable {i : Instr} {s : State} {x : Reg} {v f : Byte} (P Q : Byte → Prop)

/-- An instruction that writes one register. -/
theorem completes_of_setV (hexec : exec i s = .next (s.setV x v).advance) (hv : P v) :
    ∃ t, Completes i s t ∧ P t.V[x] ∧ RegsBut x x s t ∧ t.pc = s.pc + 2 ∧ UnchangedBut [.V, .pc] s t := by
  have hdest : P (s.setV x v).V[x] := by rwa [s.setV_get_self]
  exact ⟨_, hexec, hdest, s.setV_regsBut x v, rfl, (s.setV_frame x v).trans (State.advance_frame _)⟩

/-- An instruction that writes a result and then VF, so that VF holds the flag also for x = F (R32, R202). -/
theorem completes_of_setVThenFlag (hexec : exec i s = .next (s.setVThenFlag x v f).advance) (hv : P v) (hf : Q f) :
    ∃ t, Completes i s t ∧ (x ≠ regVF → P t.V[x]) ∧ Q t.V[regVF] ∧ RegsBut x regVF s t ∧ t.pc = s.pc + 2 ∧
      UnchangedBut [.V, .pc] s t := by
  have hdest (hx : x ≠ regVF) : P (s.setVThenFlag x v f).V[x] := by rwa [s.setVThenFlag_get_dest x v f hx]
  have hflag : Q (s.setVThenFlag x v f).V[regVF] := by rwa [s.setVThenFlag_get_VF]
  exact ⟨_, hexec, hdest, hflag, s.setVThenFlag_regsBut x v f, rfl,
    (s.setVThenFlag_frame x v f).trans (State.advance_frame _)⟩

/-- A logic instruction: by `LOGIC_VF_RESET` it writes a result and then 0 to VF, or the result alone (R193 to R195). -/
theorem completes_of_setVLogic (hexec : exec i s = .next (s.setVLogic x v).advance) (hv : P v) :
    ∃ t, Completes i s t ∧ (x ≠ regVF ∨ s.cfg.logicVfReset = false → P t.V[x]) ∧
      (s.cfg.logicVfReset = true → t.V[regVF] = 0) ∧ (s.cfg.logicVfReset = false → RegsBut x x s t) ∧ RegsBut x regVF s t ∧
      t.pc = s.pc + 2 ∧ UnchangedBut [.V, .pc] s t := by
  rcases setVLogic_cases s x v with ⟨hreset, hset⟩ | ⟨hkeep, hset⟩ <;> rw [hset] at hexec
  · obtain ⟨t, ht, hdest, hVF, others, hpc, frame⟩ := completes_of_setVThenFlag P (· = 0) hexec hv rfl
    simp only [hreset, Bool.true_eq_false, or_false, false_implies, true_implies, true_and]
    exact ⟨t, ht, hdest, hVF, others, hpc, frame⟩
  · obtain ⟨t, ht, hdest, others, hpc, frame⟩ := completes_of_setV P hexec hv
    simp only [hkeep, Bool.false_eq_true, or_true, false_implies, true_implies, true_and]
    exact ⟨t, ht, hdest, others, others.widen regVF, hpc, frame⟩

end

/-! ## Loads and `ADD Vx, byte` (R190 to R192) -/

/-- Settles O26: each writes one register and no flag. -/
theorem loadsAndAddImmediateWriteVxAlone : Obligations.LoadsAndAddImmediateWriteVxAlone := fun x y kk s =>
  ⟨completes_of_setV (· = kk) rfl rfl,
   completes_of_setV (fun r => r.toNat = ((s.V[x]).toNat + kk.toNat) % 256) rfl (BitVec.toNat_add _ _),
   completes_of_setV (· = s.V[y]) rfl rfl⟩

/-! ## OR, AND and XOR (R193 to R195) -/

/-- A byte is the bit by bit operation of two bytes. -/
def BitwiseOf (op : Bool → Bool → Bool) (a b r : Byte) : Prop := ∀ k, k < 8 → r.getLsbD k = op (a.getLsbD k) (b.getLsbD k)

/-- Settles O27: what is left of each of the three is that its result is the operation's, bit by bit. -/
theorem logicResultsAndVFReset : Obligations.LogicResultsAndVFReset := by
  intro x y s p hp
  simp only [List.mem_cons, List.not_mem_nil, or_false] at hp
  rcases hp with rfl | rfl | rfl
  · exact completes_of_setVLogic (BitwiseOf or s.V[x] s.V[y]) rfl fun _ _ => BitVec.getLsbD_or
  · exact completes_of_setVLogic (BitwiseOf and s.V[x] s.V[y]) rfl fun _ _ => BitVec.getLsbD_and
  · exact completes_of_setVLogic (BitwiseOf xor s.V[x] s.V[y]) rfl fun _ _ => BitVec.getLsbD_xor

/-! ## ADD, SUB and SUBN (R196, R197, R199) -/

theorem flagByte_decide (p : Prop) [Decidable p] : flagByte (decide p) = if p then 1 else 0 := by
  simp only [flagByte, decide_eq_true_eq]

theorem byte_sub_toNat (a b : Byte) : ((a - b).toNat : Int) = ((a.toNat : Int) - b.toNat) % 256 := by
  rw [BitVec.toNat_sub]
  omega

/-- Settles O28: the sum or difference of the old operands, and then its carry or absence of a borrow. -/
theorem addAndSubtractWithFlag : Obligations.AddAndSubtractWithFlag := by
  intro x y s
  have difference (a b : Byte) {i : Instr} (hexec : exec i s = .next (s.setVThenFlag x (a - b) (noBorrowFlag a b)).advance) :=
    completes_of_setVThenFlag (fun r => (r.toNat : Int) = ((a.toNat : Int) - b.toNat) % 256)
      (· = if a.toNat ≥ b.toNat then 1 else 0) hexec (byte_sub_toNat a b) (flagByte_decide _)
  exact ⟨completes_of_setVThenFlag (fun r => r.toNat = ((s.V[x]).toNat + (s.V[y]).toNat) % 256)
      (· = if (s.V[x]).toNat + (s.V[y]).toNat > 255 then 1 else 0) rfl (BitVec.toNat_add _ _) (flagByte_decide _),
    difference s.V[x] s.V[y] rfl, difference s.V[y] s.V[x] rfl⟩

/-! ## The shifts (R198, R200) -/

theorem shiftSource_toNat (x y : Reg) (s : State) :
    (shiftSource x y s).toNat = if s.cfg.shiftSourceVy then (s.V[y]).toNat else (s.V[x]).toNat :=
  apply_ite BitVec.toNat _ _ _

theorem byte_shiftRight_one_toNat (v : Byte) : (v >>> 1).toNat = v.toNat / 2 := by
  rw [BitVec.toNat_ushiftRight, Nat.shiftRight_eq_div_pow, pow_one]

theorem byte_shiftLeft_one_toNat (v : Byte) : (v <<< 1).toNat = v.toNat * 2 % 256 := by
  rw [BitVec.toNat_shiftLeft, Nat.shiftLeft_eq, pow_one]

/-- The bit that a right shift loses is the remainder by 2. -/
theorem shrFlag_toNat (v : Byte) : (shrFlag v).toNat = v.toNat % 2 := by
  rw [shrFlag, BitVec.toNat_and]
  exact Nat.and_one_is_mod _

/-- The bit that a left shift loses is the quotient by 128, which is 0 or 1 for a byte. -/
theorem shlFlag_toNat (v : Byte) : (shlFlag v).toNat = v.toNat / 128 := by
  have hquotient : (v >>> 7).toNat = v.toNat / 128 := by rw [BitVec.toNat_ushiftRight, Nat.shiftRight_eq_div_pow]
  change (shrFlag (v >>> 7)).toNat = v.toNat / 128
  rw [shrFlag_toNat, hquotient]
  omega

/-- Settles O29: halving and doubling of the configured source, and then the bit lost. -/
theorem shiftsByOneWithFlag : Obligations.ShiftsByOneWithFlag := by
  intro x y s src hsrc
  rw [← shiftSource_toNat] at hsrc
  subst hsrc
  exact ⟨completes_of_setVThenFlag (·.toNat = _) (·.toNat = _) rfl (byte_shiftRight_one_toNat _) (shrFlag_toNat _),
    completes_of_setVThenFlag (·.toNat = _) (·.toNat = _) rfl (byte_shiftLeft_one_toNat _) (shlFlag_toNat _)⟩

/-! ## `RND` (R201) -/

theorem drawnByte_of_supplied {s : State} {b : Byte} {rest : List Byte} (h : s.host.rndIn = b :: rest) : drawnByte s = b := by
  rw [drawnByte, h]

theorem drawnByte_of_none {s : State} (h : s.host.rndIn = []) : drawnByte s = Config.freeByte s.host.rndCount := by
  rw [drawnByte, h]

/-- Settles O30: the draw is used up, and then its masked value is the one register written. -/
theorem rndStoresOneDrawUnderTheMask : Obligations.RndStoresOneDrawUnderTheMask := by
  intro x kk s
  have hsupplied (b : Byte) (rest : List Byte) (h : s.host.rndIn = b :: rest) :
      drawnByte s = b ∧ (afterByteDraw s).host.rndIn = rest := ⟨drawnByte_of_supplied h, congrArg List.tail h⟩
  have hfree (h : s.host.rndIn = []) :
      drawnByte s = Config.freeByte s.host.rndCount ∧ (afterByteDraw s).host.rndIn = [] :=
    ⟨drawnByte_of_none h, congrArg List.tail h⟩
  have frame : UnchangedBut [.V, .pc, .draws] s ((afterByteDraw s).setV x (drawnByte s &&& kk)).advance :=
    (((afterByteDraw_frame s).trans (State.setV_frame _ x _)).trans (State.advance_frame _)).mono (by decide)
  exact ⟨_, drawnByte s, rfl, (afterByteDraw s).setV_get_self x _, hsupplied, hfree, rfl, rfl,
    (afterByteDraw s).setV_regsBut x _, rfl, frame⟩

end Sys2Proof.Machine
end

section
/-!
SUPPORT. The index register and its transfers (43_index_memory.md R220 to R225): what is written to `I` as a number, the range
check passed, and the bytes and registers after a transfer.
-/

namespace Sys2Proof.Machine

/-! ## `LD I`, `LD F` and `ADD I` (R220 to R222) -/

/-- An instruction that writes `I` alone. -/
theorem completes_of_setI {i : Instr} {s : State} {v : Word} {n : Nat} (hexec : exec i s = .next (s.setI v).advance)
    (hv : v.toNat = n) :
    ∃ t, Completes i s t ∧ t.I.toNat = n ∧ t.pc = s.pc + 2 ∧ UnchangedBut [.I, .pc] s t :=
  ⟨_, hexec, hv, rfl, (s.setI_frame v).trans (State.advance_frame _)⟩

/-- The glyph address does not wrap in 16 bits: it is at most 0xFFF + 0xFF * 5 (R222, D12). -/
theorem fontAddress_toNat (s : State) (v : Byte) : (fontAddress s v).toNat = s.cfg.fontBase.toNat + v.toNat * 5 := by
  have hglyph : (v.setWidth 16 * 5).toNat = v.toNat * 5 := by
    rw [BitVec.toNat_mul, BitVec.toNat_setWidth_of_le (by decide)]
    exact Nat.mod_eq_of_lt (show v.toNat * 5 < 65536 by omega)
  rw [fontAddress, BitVec.toNat_add, BitVec.toNat_setWidth_of_le (by decide), hglyph]
  omega

/-- Settles O31: the 12-bit address is zero-extended, so `I` has its value. -/
theorem ldISetsTheIndex : Obligations.LdISetsTheIndex := fun nnn _ => completes_of_setI rfl (zextAddr_toNat nnn)

/-- Settles O32: the glyph address is the plain sum. -/
theorem ldFPointsAtTheGlyph : Obligations.LdFPointsAtTheGlyph := fun _ s => completes_of_setI rfl (fontAddress_toNat s _)

/-- Settles O33: `I` and then VF are written, both from the old `I` and the old Vx, so that x = F needs no case of its own. -/
theorem addIndexWithFlag : Obligations.AddIndexWithFlag := by
  intro x s
  have hsum : (s.I + (s.V[x]).setWidth 16).toNat = (s.I.toNat + (s.V[x]).toNat) % 65536 := by
    rw [BitVec.toNat_add, BitVec.toNat_setWidth_of_le (by decide)]
  have hflag : indexFlag s.I s.V[x] = if s.I.toNat + (s.V[x]).toNat ≥ 0x1000 then 1 else 0 := flagByte_decide _
  exact ⟨_, rfl, hsum, (State.setV_get_self _ regVF _).trans hflag, State.setV_regsBut _ regVF _, rfl,
    ((s.setI_frame _).trans (State.setV_frame _ regVF _)).trans (State.advance_frame _)⟩

/-! ## Accesses that the range check lets through (R80) -/

section
variable {x : Reg} {s : State}

theorem execLdB_inRange (h : s.I.toNat + 2 ≤ 0xFFF) :
    execLdB x s = .next (s.writeBytes s.I.toNat (decimalDigits s.V[x])).advance := by
  rw [execLdB, firstBadAddress_none (.inr h)]

theorem execStoreRegs_inRange (h : s.I.toNat + x.val ≤ 0xFFF) :
    execStoreRegs x s = .next ((s.writeBytes s.I.toNat (regsUpTo x s)).setI (indexAfterTransfer x s)).advance := by
  rw [execStoreRegs, firstBadAddress_none (.inr h)]

theorem execLoadRegs_inRange (h : s.I.toNat + x.val ≤ 0xFFF) :
    execLoadRegs x s =
      .next ((s.setRegs (loadRegsFrom (s.readBytes s.I.toNat (x.val + 1)) 0 s.V)).setI (indexAfterTransfer x s)).advance := by
  rw [execLoadRegs, firstBadAddress_none (.inr h)]

/-- After a transfer in range `I` is at most 0x1000, so its sum does not wrap. -/
theorem indexAfterTransfer_toNat (h : s.I.toNat + x.val ≤ 0xFFF) :
    (indexAfterTransfer x s).toNat = if s.cfg.loadStoreIncrementI then s.I.toNat + x.val + 1 else s.I.toNat := by
  have hsum : (s.I + BitVec.ofNat 16 (x.val + 1)).toNat = s.I.toNat + x.val + 1 := by
    rw [BitVec.toNat_add, BitVec.toNat_ofNat]
    omega
  rw [indexAfterTransfer, apply_ite BitVec.toNat, hsum]

end

/-! ## Stored bytes read back (R77, R83) -/

section
variable {s : State} {a : Nat} {vs : List Byte} (hwf : s.mem.wf s.cfg = true) (hroom : a + vs.length ≤ memSize)
include hwf hroom

theorem State.readByte_writeBytes_inside {k : Nat} (hk : k < vs.length) :
    (s.writeBytes a vs).readByte (a + k) = vs.getD k 0 := by
  rw [State.readByte_writeBytes hwf hroom, if_pos (by omega), Nat.add_sub_cancel_left]

theorem State.readByte_writeBytes_outside {b : Nat} (hb : b < a ∨ a + vs.length ≤ b) :
    (s.writeBytes a vs).readByte b = s.readByte b := by
  rw [State.readByte_writeBytes hwf hroom, if_neg (by omega)]

end

/-! ## `LD B` (R223) -/

/-- Settles O34: the three digits are stored from `I` up, and the quotients and remainders of bytes are those of numbers. -/
theorem ldBStoresDecimalDigits : Obligations.LdBStoresDecimalDigits := by
  intro x s hwf hrange
  have hroom : s.I.toNat + (decimalDigits s.V[x]).length ≤ memSize := Nat.succ_le_succ hrange
  have hdigit (k : Nat) (hk : k < 3) := congrArg BitVec.toNat (State.readByte_writeBytes_inside hwf hroom (k := k) hk)
  have hundreds := (hdigit 0 (by decide)).trans BitVec.toNat_udiv
  have htens := (hdigit 1 (by decide)).trans BitVec.toNat_umod
  have hones := (hdigit 2 (by decide)).trans BitVec.toNat_umod
  have hothers (a : Nat) (ha : a < s.I.toNat ∨ s.I.toNat + 2 < a) :=
    State.readByte_writeBytes_outside hwf hroom (b := a) ha
  exact ⟨_, execLdB_inRange hrange, hundreds, htens, hones, hothers, rfl,
    (s.writeBytes_frame _ _).trans (State.advance_frame _)⟩

/-! ## `LD [I], Vx` (R224) -/

@[simp] theorem regsUpTo_length (x : Reg) (s : State) : (regsUpTo x s).length = x.val + 1 := by
  simp [regsUpTo]

theorem regsUpTo_getD {x r : Reg} (s : State) (h : r ≤ x) : (regsUpTo x s).getD r.val 0 = s.V[r] := by
  have hr : r.val < x.val + 1 := Nat.lt_succ_of_le h
  simp [regsUpTo, hr]

/-- Settles O35: the stored list holds Vr at place r, and ends at Vx. -/
theorem storeRegsWritesV0ToVx : Obligations.StoreRegsWritesV0ToVx := by
  intro x s hwf hrange
  have hroom : s.I.toNat + (regsUpTo x s).length ≤ memSize := by
    rw [regsUpTo_length]
    exact Nat.succ_le_succ hrange
  have hstored (r : Reg) (hr : r ≤ x) : (s.writeBytes s.I.toNat (regsUpTo x s)).readByte (s.I.toNat + r.val) = s.V[r] := by
    rw [State.readByte_writeBytes_inside hwf hroom (by rw [regsUpTo_length]; exact Nat.lt_succ_of_le hr),
      regsUpTo_getD s hr]
  have hothers (a : Nat) (ha : a < s.I.toNat ∨ s.I.toNat + x.val < a) :
      (s.writeBytes s.I.toNat (regsUpTo x s)).readByte a = s.readByte a :=
    State.readByte_writeBytes_outside hwf hroom (by rw [regsUpTo_length]; omega)
  exact ⟨_, execStoreRegs_inRange hrange, hstored, hothers, indexAfterTransfer_toNat hrange, rfl,
    ((s.writeBytes_frame _ _).trans (State.setI_frame _ _)).trans (State.advance_frame _)⟩

/-! ## `LD Vx, [I]` (R225) -/

/-- Settles O36: register r takes the byte at place r of the list read, which ends at place x. -/
theorem loadRegsReadsV0ToVx : Obligations.LoadRegsReadsV0ToVx := by
  intro x s hrange
  have hget (r : Reg) : (loadRegsFrom (s.readBytes s.I.toNat (x.val + 1)) 0 s.V)[r] =
      if r.val ≤ x.val then s.readByte (s.I.toNat + r.val) else s.V[r] := by
    rw [loadRegsFrom_get _ _ _ _ (by rw [State.readBytes_length]; omega), State.readBytes_length]
    by_cases hr : r.val ≤ x.val
    · rw [if_pos (by omega), if_pos hr, Nat.sub_zero, State.readBytes_getD _ _ _ _ (by omega)]
    · rw [if_neg (by omega), if_neg hr]
  have hloaded (r : Reg) (hr : r ≤ x) := (hget r).trans (if_pos hr)
  have hothers (r : Reg) (hr : x < r) := (hget r).trans (if_neg (not_le.mpr hr))
  exact ⟨_, execLoadRegs_inRange hrange, hloaded, hothers, indexAfterTransfer_toNat hrange, rfl,
    ((s.setRegs_frame _).trans (State.setI_frame _ _)).trans (State.advance_frame _)⟩

/-! ## Store, then load (R83) -/

theorem Completes.unique {i : Instr} {s t u : State} (ht : Completes i s t) (hu : Completes i s u) : t = u :=
  Host.Outcome.next.inj (Eq.trans ht.symm hu)

/-- Settles O38: the load reads at the old `I` the bytes that the store left there. -/
theorem storedRegistersLoadBack : Obligations.StoredRegistersLoadBack := by
  intro x s t u hwf hrange hstore hmem hcfg hI
  obtain ⟨t', hstore', hstored, -⟩ := storeRegsWritesV0ToVx x s hwf hrange
  obtain rfl := hstore.unique hstore'
  obtain ⟨v, hload, hloaded, -⟩ := loadRegsReadsV0ToVx x u (hI ▸ hrange)
  refine ⟨v, hload, fun r hr => ?_⟩
  calc v.V[r] = u.readByte (u.I.toNat + r.val) := hloaded r hr
    _ = t.readByte (s.I.toNat + r.val) := by rw [hI, State.readByte_congr hcfg hmem]
    _ = s.V[r] := hstored r hr

end Sys2Proof.Machine
end

section
/-!
SUPPORT. The display (44_display.md R251 to R258): a blit in terms of the pixels that its sprite draws, and so `CLS`, `DRW` and the
double-XOR law.
-/

namespace Sys2Proof.Machine

/-! ## What a blit does (R253, R254) -/

section
variable {wrap : Bool} {x0 y0 : Nat} {rows : List Byte} (hrows : rows.length ≤ 32) (fb : Framebuffer)
include hrows

/-- The exclusive or of the old pixel and the sprite's. -/
theorem pixelAt_blit_iff (px : Fin 64) (py : Fin 32) :
    pixelAt (blit wrap x0 y0 rows fb).1 px py = true ↔ ¬(pixelAt fb px py = true ↔ Draws wrap x0 y0 rows px py) := by
  rw [blit, (foldl_blitCell (spriteCells_nodup wrap x0 y0 rows hrows) fb false).1, ← mem_spriteCells]
  split_ifs with hcell <;> simp [hcell]

theorem blit_collides_iff :
    (blit wrap x0 y0 rows fb).2 = true ↔ ∃ px py, pixelAt fb px py = true ∧ Draws wrap x0 y0 rows px py := by
  rw [blit, (foldl_blitCell (spriteCells_nodup wrap x0 y0 rows hrows) fb false).2]
  simp only [Bool.false_eq_true, false_or, Prod.exists, mem_spriteCells, and_comm]

/-- The double-XOR law of the blitter (R258). -/
theorem blit_blit : (blit wrap x0 y0 rows (blit wrap x0 y0 rows fb).1).1 = fb := by
  refine framebuffer_ext fun px py => Bool.eq_iff_iff.mpr ?_
  rw [pixelAt_blit_iff hrows, pixelAt_blit_iff hrows]
  tauto

theorem blit_allOff_collides : (blit wrap x0 y0 rows Framebuffer.allOff).2 = false := by
  rw [← Bool.not_eq_true, blit_collides_iff hrows]
  simp

/-- Over an all-off framebuffer a blit turns on the pixels that the sprite draws. -/
theorem pixelAt_blit_allOff_iff (px : Fin 64) (py : Fin 32) :
    pixelAt (blit wrap x0 y0 rows Framebuffer.allOff).1 px py = true ↔ Draws wrap x0 y0 rows px py := by
  rw [pixelAt_blit_iff hrows, pixelAt_allOff]
  simp

theorem blit_again_collides_iff : (blit wrap x0 y0 rows (blit wrap x0 y0 rows Framebuffer.allOff).1).2 = true ↔
    ∃ px py, Draws wrap x0 y0 rows px py := by
  simp only [blit_collides_iff hrows, pixelAt_blit_allOff_iff hrows, and_self]

end

/-- Settles O42: a pixel XORed twice with the sprite's is the old one, and over an all-off framebuffer the second blit meets the
pixels that the first one drew. -/
theorem blitTwiceRestoresTheFramebuffer : Obligations.BlitTwiceRestoresTheFramebuffer := by
  intro wrap x0 y0 rows fb _ _ hrows
  have hrows : rows.length ≤ 32 := hrows.trans (by decide)
  exact ⟨blit_blit hrows fb, blit_allOff_collides hrows, blit_again_collides_iff hrows⟩

/-! ## `CLS` (R251, R256) -/

/-- Settles O40: the cleared framebuffer is the all-off one, and only it and `pc` are written. -/
theorem clsTurnsEveryPixelOff : Obligations.ClsTurnsEveryPixelOff := fun s =>
  ⟨s.clear.advance, rfl, pixelAt_allOff, rfl, (s.setFB_frame _).trans (State.advance_frame _)⟩

/-! ## `DRW` (R257) -/

theorem flagByte_eq_one_iff {b : Bool} : flagByte b = 1 ↔ b = true := by cases b <;> decide

theorem flagByte_zero_or_one (b : Bool) : flagByte b = 0 ∨ flagByte b = 1 := by cases b <;> decide

theorem execDrw_inRange {x y : Reg} {n : Nibble} {s : State} (h : n.toNat = 0 ∨ s.I.toNat + (n.toNat - 1) ≤ 0xFFF) :
    execDrw x y n s = .next ((s.setFB (drwBlit x y n s).1).setV regVF (flagByte (drwBlit x y n s).2)).advance := by
  rw [execDrw, firstBadAddress_none h]

/-- Settles O41: the framebuffer and then VF are written, both from the one blit of the state before the instruction. -/
theorem drwFlipsTheDrawnPixels : Obligations.DrwFlipsTheDrawnPixels := by
  rintro x y n s _ hrange rfl
  have hrows : (s.readBytes s.I.toNat n.toNat).length ≤ 32 := by
    rw [State.readBytes_length]
    omega
  have hVF := State.setV_get_self (s.setFB (drwBlit x y n s).1) regVF (flagByte (drwBlit x y n s).2)
  have hflag := (hVF ▸ flagByte_eq_one_iff).trans (blit_collides_iff hrows s.FB)
  have hbit := hVF ▸ flagByte_zero_or_one (drwBlit x y n s).2
  exact ⟨_, execDrw_inRange (by omega), pixelAt_blit_iff hrows s.FB, hflag, hbit, State.setV_regsBut _ regVF _, rfl,
    ((s.setFB_frame _).trans (State.setV_frame _ regVF _)).trans (State.advance_frame _)⟩

end Sys2Proof.Machine
end

section
/-!
SUPPORT. Keypad and timer instructions (45_keys_timers.md R280 to R285): the wait for a pressed key, the skips on a key, and the
timer transfers.
-/

namespace Sys2Proof.Machine

/-! ## `LD Vx, K` (R283) -/

theorem pressedKeys_eq_nil_iff {s : State} : pressedKeys s = [] ↔ ∀ k : Key, s.KEY[k] = false := by
  simp only [List.eq_nil_iff_forall_not_mem, mem_pressedKeys, Bool.not_eq_true]

theorem execLdVxK_released {x : Reg} {s : State} (h : pressedKeys s = []) : execLdVxK x s = .next s := by
  rw [execLdVxK, h]

theorem execLdVxK_pressed {x : Reg} {s : State} {k : Key} {ks : List Key} (h : pressedKeys s = k :: ks) :
    execLdVxK x s = .next ((afterKeyDraw ks s).setV x (BitVec.ofNat 8 (drawnKey k ks s).val)).advance := by
  rw [execLdVxK, h]

theorem drawnKey_pressed {s : State} {k : Key} {ks : List Key} (h : pressedKeys s = k :: ks) :
    s.KEY[drawnKey k ks s] = true :=
  mem_pressedKeys.mp (h ▸ drawnKey_mem k ks s)

theorem keyByte_toNat (k : Key) : (BitVec.ofNat 8 k.val).toNat = k.val := by
  rw [BitVec.toNat_ofNat]
  omega

/-- A choice among keys leaves the source of `RND` alone. -/
theorem afterKeyDraw_randomSource (ks : List Key) (s : State) :
    (afterKeyDraw ks s).host.rndIn = s.host.rndIn ∧ (afterKeyDraw ks s).host.rndCount = s.host.rndCount := by
  cases ks <;> exact ⟨rfl, rfl⟩

theorem RegsBut.of_V_eq {x y : Reg} {s u t : State} (h : RegsBut x y u t) (hV : u.V = s.V) : RegsBut x y s t :=
  fun r hx hy => (h r hx hy).trans (congrArg (·[r]) hV)

/-- Settles O45: `p` is among the pressed keys, so one of them is drawn, and its number is the one register written. -/
theorem keyWaitStoresAPressedKey : Obligations.KeyWaitStoresAPressedKey := by
  intro x s p hp
  obtain ⟨k, ks, hkeys⟩ := List.exists_cons_of_ne_nil (List.ne_nil_of_mem (mem_pressedKeys.mpr hp))
  have hpressed := drawnKey_pressed hkeys
  have hdest := (congrArg BitVec.toNat ((afterKeyDraw ks s).setV_get_self x _)).trans (keyByte_toNat (drawnKey k ks s))
  have hpc : (afterKeyDraw ks s).pc = s.pc := afterKeyDraw_frame s ks .pc (by decide)
  obtain ⟨hrndIn, hrndCount⟩ := afterKeyDraw_randomSource ks s
  exact ⟨_, drawnKey k ks s, execLdVxK_pressed hkeys, hpressed, hdest, fun honly => honly _ hpressed,
    (State.setV_regsBut _ x _).of_V_eq (afterKeyDraw_V ks s), congrArg (· + 2) hpc, hrndIn, hrndCount,
    (((afterKeyDraw_frame s ks).trans (State.setV_frame _ x _)).trans (State.advance_frame _)).mono (by decide)⟩

/-- Settles O46: the list of pressed keys is empty. -/
theorem keyWaitWithoutKeyChangesNothing : Obligations.KeyWaitWithoutKeyChangesNothing := fun _ _ h =>
  execLdVxK_released (pressedKeys_eq_nil_iff.mpr h)

/-! ## `SKP` and `SKNP` (R280, R281) -/

section
variable {s : State} (x : Reg)

theorem execSkp_key {k : Key} (h : (s.V[x]).toNat = k.val) : execSkp x s = .next (s.skipIf s.KEY[k]) := by
  rw [execSkp, keyNumber_eq_some.mpr h]

theorem execSknp_key {k : Key} (h : (s.V[x]).toNat = k.val) : execSknp x s = .next (s.skipIf (!s.KEY[k])) := by
  rw [execSknp, keyNumber_eq_some.mpr h]

theorem execSkp_noKey (h : 0xF < (s.V[x]).toNat) :
    execSkp x s = raiseError (.skp x) .keyOutOfRange (some ((s.V[x]).setWidth 16)) s := by
  rw [execSkp, keyNumber_eq_none.mpr h]

theorem execSknp_noKey (h : 0xF < (s.V[x]).toNat) :
    execSknp x s = raiseError (.sknp x) .keyOutOfRange (some ((s.V[x]).setWidth 16)) s := by
  rw [execSknp, keyNumber_eq_none.mpr h]

end

/-- Settles O43: a key number selects the key whose state is tested, positively by `SKP` and negated by `SKNP`; any other value is
the info of the error completion of R145. -/
theorem keySkipsReadTheKeyOrRaise : Obligations.KeySkipsReadTheKeyOrRaise := by
  intro x s
  constructor
  · intro k hk
    have hskipReleased := completes_of_skipIf (i := .sknp x) (p := ¬ s.KEY[k] = true) (execSknp_key x hk) (by simp)
    rw [ite_not] at hskipReleased
    exact ⟨completes_of_skipIf (execSkp_key x hk) Iff.rfl, hskipReleased⟩
  · intro hbig i hi
    have hraise : exec i s = raiseError i .keyOutOfRange (some ((s.V[x]).setWidth 16)) s := by
      simp only [List.mem_cons, List.not_mem_nil, or_false] at hi
      obtain rfl | rfl := hi
      · exact execSkp_noKey x hbig
      · exact execSknp_noKey x hbig
    obtain ⟨t, ht, raised⟩ := raiseError_spec i .keyOutOfRange (some ((s.V[x]).setWidth 16)) s
    exact ⟨t, _, hraise.trans ht, BitVec.toNat_setWidth_of_le (by decide), raised⟩

/-! ## The timer transfers (R282, R284, R285) -/

/-- Settles O44: each is one write and the advance. -/
theorem timerTransfers : Obligations.TimerTransfers := fun x s =>
  ⟨completes_of_setV (· = s.DT) rfl rfl,
   ⟨_, rfl, rfl, rfl, (s.setDT_frame s.V[x]).trans (State.advance_frame _)⟩,
   ⟨_, rfl, rfl, rfl, (s.setST_frame s.V[x]).trans (State.advance_frame _)⟩⟩

end Sys2Proof.Machine
end

section
/-!
SUPPORT. Timer ticks, the end of a pass, and the pass as a whole (60_exceptions.md R321 to R332).
-/

namespace Sys2Proof.Machine

/-! ## Timer ticks (R327, R330) -/

theorem decTimer_toNat (v : Byte) : (decTimer v).toNat = v.toNat - 1 := by
  rw [decTimer]
  split <;> bv_omega

theorem timerTick_frame (s : State) : UnchangedBut [.DT, .ST] s (timerTick s) := by
  intro e he
  cases e <;> simp [Elem.same, State.readByte] at he ⊢

/-- Settles O47: the tick is the counter's own for `DT` and for `ST`. -/
theorem timerTickDecrementsBothTimers : Obligations.TimerTickDecrementsBothTimers := fun s =>
  ⟨decTimer_toNat s.DT, decTimer_toNat s.ST, timerTick_frame s⟩

/-- Settles O48, by induction on the number of timer ticks: each lowers both counters by 1, with a floor at 0. -/
theorem timerDecaysToZero : Obligations.TimerDecaysToZero := by
  intro n
  induction n with
  | zero => exact fun s => ⟨rfl, rfl⟩
  | succ n ih =>
    intro s
    obtain ⟨hDT, hST⟩ := ih (timerTick s)
    rw [timerTick_DT, decTimer_toNat, Nat.sub_sub, Nat.add_comm] at hDT
    rw [timerTick_ST, decTimer_toNat, Nat.sub_sub, Nat.add_comm] at hST
    exact ⟨hDT, hST⟩

/-! ## The end of a pass (R322, R324, R325) -/

section
variable {e : Nat} {s : State}

theorem endPass_below (h : s.tmrAcc + e < s.cfg.cpuHz) : endPass e s = { s with tmrAcc := s.tmrAcc + e, pass := none } :=
  if_neg (Nat.not_le.mpr h)

theorem endPass_due (h : s.cfg.cpuHz ≤ s.tmrAcc + e) :
    endPass e s = frameTick (timerTick { s with tmrAcc := s.tmrAcc + e - s.cfg.cpuHz, pass := none }) := if_pos h

end

/-- The end of a pass leaves no pass in progress, and what is owed and `running` as they are. -/
theorem endPass_scheduler (e : Nat) (s : State) :
    (endPass e s).pass = none ∧ (endPass e s).cpuAcc = s.cpuAcc ∧ (endPass e s).running = s.running := by
  obtain ⟨-, h⟩ | ⟨-, h⟩ := endPass_eq e s <;> rw [h] <;> exact ⟨rfl, rfl, rfl⟩

theorem State.emit_frame (s : State) (o : HostOutput) : UnchangedBut [.hostLog] s (s.emit o) := by
  intro e he
  cases e <;> simp [Elem.same, State.readByte] at he ⊢

/-- The timer accumulator and the pass in progress are of the scheduler's state (R45). -/
theorem timerAccAndPass_frame (s : State) (acc : Nat) (p : Option Nat) :
    UnchangedBut [.sched] s { s with tmrAcc := acc, pass := p } := by
  intro e he
  cases e <;> simp [Elem.same, State.readByte] at he ⊢

theorem endPass_frame (e : Nat) (s : State) : UnchangedBut [.DT, .ST, .sched, .hostLog] s (endPass e s) := by
  obtain ⟨-, h⟩ | ⟨-, h⟩ := endPass_eq e s <;> rw [h]
  · exact (((timerAccAndPass_frame s _ none).trans (timerTick_frame _)).trans (State.emit_frame _ _)).mono (by decide)
  · exact (timerAccAndPass_frame s _ none).mono (by decide)

/-- Settles O49: below the boundary only the accumulator and the pass are written; at it a timer tick and a frame tick follow. -/
theorem passEndTakesAtMostOneTimerAndFrameTick : Obligations.PassEndTakesAtMostOneTimerAndFrameTick := by
  intro e s
  obtain ⟨hpass, hacc, hrun⟩ := endPass_scheduler e s
  refine ⟨hpass, hacc, hrun, (endPass_sameRomAndScript e s).script, endPass_frame e s, fun hbelow => ?below, fun hdue => ?due⟩
  case below =>
    rw [endPass_below hbelow]
    exact ⟨rfl, rfl, rfl, rfl⟩
  case due =>
    rw [endPass_due hdue]
    exact ⟨Nat.sub_add_cancel hdue, decTimer_toNat s.DT, decTimer_toNat s.ST, rfl⟩

/-! ## The pass as a whole (R322, R323) -/

theorem beginPass_of_running {s : State} (e : Nat) (h : s.running = true) :
    beginPass e s = { s with cpuAcc := s.cpuAcc + e, pass := some e } := if_pos h

theorem cpuTicks_succ {s u : State} (k : Nat) (h : cpuTick s = .next u) : cpuTicks (k + 1) s = cpuTicks k (spendCpu u) := by
  rw [cpuTicks, h, onNext_next]

theorem passTicks_succ {s t : State} (k : Nat) (h : passTick s = .next t) : passTicks (k + 1) s = passTicks k t := by
  rw [passTicks, h]

/-- CPU ticks in a row complete, and of the scheduler's state they use up one CPU period each and nothing more. -/
theorem cpuTicks_spend (k : Nat) (s : State) : ∃ t, cpuTicks k s = .next t ∧ t.cpuAcc = s.cpuAcc - cpuPeriod * k ∧
    t.running = s.running := by
  induction k generalizing s with
  | zero => exact ⟨s, rfl, rfl, rfl⟩
  | succ k ih =>
    obtain ⟨u, hu⟩ := cpuTick_answers s
    have kept := cpuTick_keeps hu
    obtain ⟨t, ht, hacc, hrun⟩ := ih (spendCpu u)
    refine ⟨t, (cpuTicks_succ k hu).trans ht, ?_, hrun.trans kept.running⟩
    rw [hacc, spendCpu_cpuAcc, kept.cpuAcc, Nat.sub_sub, Nat.mul_succ, Nat.add_comm]

/-- The ticks of a pass in progress that owes `k` CPU ticks: these, and then its end (R322). -/
theorem passTicks_of_owed {k e : Nat} {s : State} (hpass : s.pass = some e) (hrun : s.running = true)
    (howed : s.cpuAcc / cpuPeriod = k) : passTicks (k + 1) s = onNext (cpuTicks k s) (endPass e) := by
  induction k generalizing s with
  | zero =>
    have hdone : ¬ cpuPeriod ≤ s.cpuAcc := Nat.not_le.mpr (Nat.lt_of_div_eq_zero (by decide) howed)
    have hend : passTick s = .next (endPass e s) := by simp only [passTick, hpass, if_pos hrun, if_neg hdone]
    exact passTicks_succ 0 hend
  | succ k ih =>
    have hdue : cpuPeriod ≤ s.cpuAcc := by
      rw [cpuPeriod] at howed ⊢
      omega
    obtain ⟨u, hu⟩ := cpuTick_answers s
    have kept := cpuTick_keeps hu
    have htick : passTick s = .next (spendCpu u) := by rw [passTick_of_tickDue ⟨⟨e, hpass⟩, hrun, hdue⟩, hu, onNext_next]
    have hleft : (spendCpu u).cpuAcc / cpuPeriod = k := by
      rw [Nat.div_eq_sub_div (by decide) hdue] at howed
      rw [spendCpu_cpuAcc, kept.cpuAcc]
      exact Nat.succ.inj howed
    calc passTicks (k + 2) s = passTicks (k + 1) (spendCpu u) := passTicks_succ _ htick
      _ = onNext (cpuTicks k (spendCpu u)) (endPass e) := ih (kept.pass.trans hpass) (kept.running.trans hrun) hleft
      _ = onNext (cpuTicks (k + 1) s) (endPass e) := by rw [cpuTicks_succ k hu]

/-- Settles O50: the pass begins by owing that many CPU ticks, which use up all but the remainder. -/
theorem passRunsTheOwedCpuTicks : Obligations.PassRunsTheOwedCpuTicks := by
  intro e s hrun _
  have hbegin := beginPass_of_running e hrun
  have hwhole : schedulerPass e s = onNext (cpuTicks ((s.cpuAcc + e) / 60) (beginPass e s)) (endPass e) := by
    rw [schedulerPass, hbegin]
    exact passTicks_of_owed rfl hrun rfl
  obtain ⟨t, hticks, hacc, hrunning⟩ := cpuTicks_spend ((s.cpuAcc + e) / 60) (beginPass e s)
  rw [hbegin] at hacc hrunning
  obtain ⟨hend, haccEnd, hrunEnd⟩ := endPass_scheduler e t
  have hcompletes : schedulerPass e s = .next (endPass e t) := by rw [hwhole, hticks, onNext_next]
  have hremainder : t.cpuAcc = (s.cpuAcc + e) % 60 := hacc.trans (Nat.mod_eq_sub_mul_div ..).symm
  exact ⟨hwhole, endPass e t, hcompletes, haccEnd.trans hremainder, hend, (hrunEnd.trans hrunning).trans hrun⟩

end Sys2Proof.Machine
end

section
/-!
SUPPORT. Every step answers, logs at most one error, and does what the host's action says; a stopped core only takes the host's
actions (60_exceptions.md R300 to R307, R326, R340 to R343).
-/

namespace Sys2Proof.Machine

/-! ## Every step answers (R302) -/

theorem step_of_script {s : State} {a : HostAction} {rest : List HostAction} (h : s.host.script = a :: rest) :
    step s = hostStep a rest s := by rw [step, machineStep, h]

theorem passTick_answers (s : State) : ∃ t, passTick s = .next t := by
  obtain ⟨u, hu⟩ := cpuTick_answers s
  rw [passTick, hu]
  split
  · exact ⟨_, rfl⟩
  · split
    · split <;> exact ⟨_, rfl⟩
    · exact ⟨_, rfl⟩

theorem freeStep_answers (s : State) : ∃ t, freeStep s = .next t := by
  obtain ⟨u, hu⟩ := passTick_answers (regularPass s)
  exact ⟨settle u, by rw [freeStep, hu, onNext_next]⟩

theorem hostStep_answers (a : HostAction) (rest : List HostAction) (s : State) : ∃ t, hostStep a rest s = .next t := by
  cases a
  case wait => exact passTick_answers _
  case pass e =>
    rw [hostStep]
    split
    · exact ⟨_, rfl⟩
    · exact passTick_answers s
  all_goals exact ⟨_, rfl⟩

/-- Settles O8: the core's own step and each of the host's actions answer, since every instruction does. -/
theorem everyStepAnswersANextState : Obligations.EveryStepAnswersANextState := by
  intro s
  cases hs : s.host.script with
  | nil => exact step_of_noScript hs ▸ freeStep_answers s
  | cons a rest => exact step_of_script hs ▸ hostStep_answers a rest s

/-! ## The error log (R300, R307) -/

/-- The error log is the same, or has one record more at its end. -/
def LogsAtMostOne (s t : State) : Prop := t.errors = s.errors ∨ ∃ r, t.errors = s.errors ++ [r]

theorem LogsAtMostOne.congr {s s' t t' : State} (h : LogsAtMostOne s t) (hs : s.errors = s'.errors)
    (ht : t'.errors = t.errors) : LogsAtMostOne s' t' := by
  rwa [LogsAtMostOne, ht, ← hs]

theorem cpuTick_logsAtMostOne {s t : State} (h : cpuTick s = .next t) : LogsAtMostOne s t := by
  obtain ⟨-, rfl⟩ | ⟨-, hexec⟩ := cpuTick_cases h
  · exact .inr ⟨_, s.logError_errors _⟩
  · exact (exec_can hexec).errors.imp_right fun ⟨r, hr, _⟩ => ⟨r, hr⟩

theorem endPass_errors (e : Nat) (s : State) : (endPass e s).errors = s.errors := endPass_frame e s .errors (by decide)

theorem settle_errors (s : State) : (settle s).errors = s.errors := by
  obtain ⟨e, -, -, -, h⟩ | ⟨-, h⟩ := settle_cases s <;> rw [h]
  exact endPass_errors e s

theorem passTick_logsAtMostOne {s t : State} (h : passTick s = .next t) : LogsAtMostOne s t := by
  obtain ⟨-, rfl⟩ | ⟨e, u, -, -, -, hu, rfl⟩ | ⟨e, -, -, -, rfl⟩ | ⟨e, -, -, rfl⟩ := passTick_cases h
  · exact .inl rfl
  · exact (cpuTick_logsAtMostOne hu).congr rfl (spendCpu_errors u)
  · exact .inl (endPass_errors e s)
  · exact .inl rfl

/-- Settles O14: a step takes at most one tick of a pass, and of the host's actions only load and reset write the log. -/
theorem errorLogGrowsByAtMostOneRecord : Obligations.ErrorLogGrowsByAtMostOneRecord := by
  intro s t h hreset hload
  rcases step_cases h with ⟨-, u, hu, rfl⟩ | ⟨rest, -, ht⟩ | ⟨e, rest, -, -, ht⟩ | ⟨e, rest, -, -, rfl⟩ |
    ⟨rom, rest, hs, -⟩ | ⟨rest, hs, -⟩ | ⟨k, b, rest, -, rfl⟩ | ⟨rest, -, rfl⟩ | ⟨b, rest, -, rfl⟩
  · exact (passTick_logsAtMostOne hu).congr (regularPass_frame s .errors (by decide)) (settle_errors u)
  · exact (passTick_logsAtMostOne ht).congr rfl rfl
  · exact passTick_logsAtMostOne ht
  · exact .inl (beginPass_frame e (s.withScript rest) .errors (by decide))
  · exact absurd (congrArg List.head? hs) (hload rom)
  · exact absurd (congrArg List.head? hs) hreset
  all_goals exact .inl rfl

/-! ## A stopped core (R326) -/

section
variable {s : State} (hstopped : s.running = false)
include hstopped

theorem beginPass_of_stopped (e : Nat) : beginPass e s = s := if_neg (Bool.eq_false_iff.mp hstopped)

/-- The next tick of a stopped core's pass drops what is left of the pass (R322). -/
theorem passTick_of_stopped {t : State} (h : passTick s = .next t) : t = { s with pass := none } := by
  rcases passTick_cases h with ⟨hpass, rfl⟩ | ⟨e, u, -, hrun, -⟩ | ⟨e, -, hrun, -⟩ | ⟨e, -, -, rfl⟩
  · rw [← hpass]
  · exact absurd hrun (Bool.eq_false_iff.mp hstopped)
  · exact absurd hrun (Bool.eq_false_iff.mp hstopped)
  · rfl

theorem regularPass_of_stopped : regularPass s = s := by
  obtain ⟨-, h⟩ | ⟨-, h⟩ := regularPass_cases s <;> rw [h]
  exact beginPass_of_stopped hstopped cpuPeriod

end

theorem settle_of_noPass {s : State} (h : s.pass = none) : settle s = s := by rw [settle, h]

/-- Settles O51: without a tick, a step takes an action of the host, which writes the keypad, the queue of random bytes or
`running`, or it drops what is left of the pass in progress. -/
theorem stoppedCoreRunsNoTick : Obligations.StoppedCoreRunsNoTick := by
  intro s t hstopped h hreset hload
  rcases step_cases h with ⟨-, u, hu, rfl⟩ | ⟨rest, -, ht⟩ | ⟨e, rest, -, -, ht⟩ | ⟨e, rest, -, -, rfl⟩ |
    ⟨rom, rest, hs, -⟩ | ⟨rest, hs, -⟩ | ⟨k, b, rest, -, rfl⟩ | ⟨rest, -, rfl⟩ | ⟨b, rest, -, rfl⟩
  · rw [regularPass_of_stopped hstopped] at hu
    rw [passTick_of_stopped hstopped hu, settle_of_noPass rfl]
    simp [SameCore, hstopped]
  · rw [passTick_of_stopped (s := s.withScript rest) hstopped ht]
    simp [SameCore, hstopped]
  · rw [passTick_of_stopped hstopped ht]
    simp [SameCore, hstopped]
  · rw [beginPass_of_stopped (s := s.withScript rest) hstopped e]
    simp [SameCore, hstopped]
  · exact absurd (congrArg List.head? hs) (hload rom)
  · exact absurd (congrArg List.head? hs) hreset
  all_goals simp [SameCore, hstopped]

/-! ## Stop, keys, passes and random bytes (R322, R326, R340, R341) -/

section
variable (s : State)

theorem State.withScript_frame (l : List HostAction) : UnchangedBut [.hostLog] s (s.withScript l) := by
  intro e he
  cases e <;> simp [Elem.same, State.readByte] at he ⊢

theorem stop_frame : UnchangedBut [.sched] s (stop s) := by
  intro e he
  cases e <;> simp [Elem.same, State.readByte] at he ⊢

theorem setKey_frame (k : Key) (b : Bool) : UnchangedBut [.KEY] s (setKey k b s) := by
  intro e he
  cases e <;> simp [Elem.same, State.readByte] at he ⊢

theorem supplyRandom_frame (b : Byte) : UnchangedBut [.draws] s (supplyRandom b s) := by
  intro e he
  cases e <;> simp [Elem.same, State.readByte] at he ⊢

theorem setKey_get_self (k : Key) (b : Bool) : (setKey k b s).KEY[k] = b := Vector.getElem_set_self k.isLt

theorem setKey_get_ne {k q : Key} (b : Bool) (h : q ≠ k) : (setKey k b s).KEY[q] = s.KEY[q] :=
  Vector.getElem_set_ne k.isLt q.isLt fun e => h (Fin.ext e.symm)

end

/-- Settles O52: each action is one write after it is taken off the script. -/
theorem stopAndSetKeyTakeEffect : Obligations.StopAndSetKeyTakeEffect := by
  intro s rest k b
  have taken := s.withScript_frame rest
  constructor
  · intro hs
    exact ⟨stop (s.withScript rest), step_of_script hs, rfl, rfl, rfl, rfl, rfl, rfl,
      (taken.trans (stop_frame _)).mono (by decide)⟩
  · intro hs
    exact ⟨setKey k b (s.withScript rest), step_of_script hs, setKey_get_self _ k b, fun q => setKey_get_ne _ b, rfl, rfl,
      (taken.trans (setKey_frame _ k b)).mono (by decide)⟩

theorem hostStep_pass_between {s : State} (e : Nat) (rest : List HostAction) (h : s.pass = none) :
    hostStep (.pass e) rest s = .next (beginPass e (s.withScript rest)) := by rw [hostStep, h]

theorem hostStep_pass_inside {s : State} (e : Nat) (rest : List HostAction) (h : s.pass ≠ none) :
    hostStep (.pass e) rest s = passTick s := by
  obtain ⟨d, hd⟩ := Option.ne_none_iff_exists'.mp h
  rw [hostStep, hd]

/-- Settles O53: between passes the action is the beginning of a pass, which does nothing on a stopped core; inside one it is
the next tick, which leaves the script alone. -/
theorem passAndRandomActionsTakeEffect : Obligations.PassAndRandomActionsTakeEffect := by
  intro s rest e b
  have taken := s.withScript_frame rest
  refine ⟨fun hs hpass hrun => ?running, fun hs hpass hstopped => ?stopped, fun hs hpass => ?inside, fun hs => ?random⟩
  case running =>
    have hstep := (step_of_script hs).trans (hostStep_pass_between e rest hpass)
    have frame := (taken.trans (beginPass_frame e (s.withScript rest))).mono (w' := [.sched, .hostLog]) (by decide)
    rw [beginPass_of_running (s := s.withScript rest) e hrun] at hstep frame
    exact ⟨_, hstep, rfl, rfl, rfl, hrun, rfl, rfl, frame⟩
  case stopped =>
    have hstep := (step_of_script hs).trans (hostStep_pass_between e rest hpass)
    rw [beginPass_of_stopped (s := s.withScript rest) hstopped e] at hstep
    exact ⟨_, hstep, rfl, rfl, taken⟩
  case inside =>
    have hstep := (step_of_script hs).trans (hostStep_pass_inside e rest hpass)
    exact ⟨hstep, fun t ht => (passTick_sameRomAndScript (hstep ▸ ht)).script.trans hs⟩
  case random =>
    exact ⟨supplyRandom b (s.withScript rest), step_of_script hs, rfl, rfl, rfl, rfl, rfl,
      (taken.trans (supplyRandom_frame _ b)).mono (by decide)⟩

/-! ## Load and reset as actions (R340, R350, R352) -/

/-- What `load` and `reset` do not touch: the keypad, the configuration, the pass in progress and the host's side (R353). -/
structure KeptByInit (s t : State) : Prop where
  KEY : t.KEY = s.KEY
  cfg : t.cfg = s.cfg
  pass : t.pass = s.pass
  host : t.host = s.host

theorem load_keeps (rom : List Byte) (s : State) : KeptByInit s (load rom s).2 := by
  obtain ⟨r, h⟩ | ⟨-, -, h⟩ := load_cases rom s <;> rw [h] <;> exact ⟨rfl, rfl, rfl, rfl⟩

theorem resetCore_keeps (s : State) : KeptByInit s (resetCore s).2 := by
  obtain ⟨r, h⟩ | ⟨rom, -, -, h⟩ := resetCore_cases s <;> rw [h] <;> exact ⟨rfl, rfl, rfl, rfl⟩

theorem initState_withScript (rom : List Byte) (l : List HostAction) (s : State) :
    initState rom (s.withScript l) = (initState rom s).withScript l := rfl

/-- `load` does not read the script. -/
theorem load_withScript (rom : List Byte) (l : List HostAction) (s : State) :
    load rom (s.withScript l) = ((load rom s).1, (load rom s).2.withScript l) := by
  by_cases hlen : maxRom < rom.length
  · simp only [load, if_pos hlen]
  · cases hok : s.cfg.ok <;> simp [load, if_neg hlen, hok, initState_withScript]

/-- `reset` does not read the script. -/
theorem resetCore_withScript (l : List HostAction) (s : State) :
    resetCore (s.withScript l) = ((resetCore s).1, (resetCore s).2.withScript l) := by
  cases hrom : s.rom with
  | none => simp [resetCore, hrom]
  | some rom => cases hok : s.cfg.ok <;> simp [resetCore, hrom, hok, initState_withScript]

/-- Settles O54: the operation keeps the host's side, and its answer is added to what the host has been handed. -/
theorem loadAndResetActionsAnswerTheHost : Obligations.LoadAndResetActionsAnswerTheHost := by
  intro s rest a r hr hs
  have hstep : step s = .next (answer (r.1, r.2.withScript rest)) := by
    obtain ⟨rom, rfl, rfl⟩ | ⟨rfl, rfl⟩ := hr <;> rw [step_of_script hs, hostStep]
    · rw [load_withScript]
    · rw [resetCore_withScript]
  have kept : KeptByInit s r.2 := by
    obtain ⟨rom, -, rfl⟩ | ⟨-, rfl⟩ := hr
    · exact load_keeps rom s
    · exact resetCore_keeps s
  refine ⟨_, hstep, ?_⟩
  simp [answer, SameCore, Elem.same, kept.KEY, kept.cfg, kept.pass, kept.host]

end Sys2Proof.Machine
end

section
/-!
SUPPORT. What a legal load establishes, how load and reset are refused, and a reset after a run with no load or reset in it
(70_reset_and_hazards.md section 1); and the decoder vectors of 95_test_vectors.md.
-/

namespace Sys2Proof.Machine

/-! ## Load and reset, one equation per case (R350 to R352, R303) -/

section
variable {rom : List Byte} {s : State}

theorem load_of_oversize (hlen : maxRom < rom.length) : load rom s = (.error .oversize, s) := if_pos hlen

theorem load_of_fits (hlen : rom.length ≤ maxRom) :
    load rom s = if s.cfg.ok then (.success, initState rom s) else (.error .badConfig, s) := if_neg (Nat.not_lt.mpr hlen)

theorem resetCore_of_noRom (hrom : s.rom = none) : resetCore s = (.error .noRom, s) := by rw [resetCore, hrom]

theorem resetCore_of_stored (hrom : s.rom = some rom) :
    resetCore s = if s.cfg.ok then (.success, initState rom s) else (.error .badConfig, s) := by rw [resetCore, hrom]

end

/-- Settles O56: each refusal is one case of the operation; the size of the ROM and whether one is stored are checked first. -/
theorem refusedLoadChangesNothing : Obligations.RefusedLoadChangesNothing := by
  intro rom s
  refine ⟨load_of_oversize, fun hfits hbad => ?load, resetCore_of_noRom, fun stored hstored hbad => ?reset⟩
  case load => rw [load_of_fits hfits, hbad, if_neg Bool.false_ne_true]
  case reset => rw [resetCore_of_stored hstored, hbad, if_neg Bool.false_ne_true]

/-! ## Memory after the initialisation (R47, R353) -/

/-- The reset contents hold the font at `FONT_BASE` (R73, R75). -/
theorem resetByte_font (c : Config) (k : Nat) : resetByte c (c.fontBase.toNat + k) = c.font.getD k 0 := by
  rw [resetByte, if_pos (Nat.le_add_right _ _), Nat.add_sub_cancel_left]

theorem resetByte_outside_font {c : Config} {a : Nat}
    (ha : a < c.fontBase.toNat ∨ c.fontBase.toNat + c.font.length ≤ a) : resetByte c a = 0 := by
  obtain hbelow | habove := ha
  · exact if_neg (Nat.not_le.mpr hbelow)
  · rw [resetByte, if_pos (by omega), List.getD_eq_default _ _ (by omega)]

/-- A configuration inside its domain has a font of eighty bytes that ends below the program start (D12). -/
theorem font_of_cfgOk {c : Config} (h : c.ok = true) : c.font.length = 80 ∧ c.fontBase.toNat + 80 ≤ programStart := by
  simp only [Config.ok, Bool.and_eq_true, decide_eq_true_eq] at h
  obtain ⟨⟨-, hlength⟩, hend⟩ := h
  exact ⟨hlength, Nat.succ_le_succ hend⟩

section
variable {rom : List Byte} {s : State} (hfits : rom.length ≤ maxRom)
include hfits

/-- After the initialisation memory holds the ROM from the program start up, and the reset contents everywhere else. -/
theorem initState_readByte (a : Nat) : (initState rom s).readByte a =
    if programStart ≤ a ∧ a < programStart + rom.length then rom.getD (a - programStart) 0 else resetByte s.cfg a :=
  memRead_memWriteBytes (m := []) rfl (by simp only [maxRom, memSize, programStart] at hfits ⊢; omega)

theorem initState_readByte_rom {k : Nat} (hk : k < rom.length) : (initState rom s).readByte (programStart + k) = rom.getD k 0 := by
  rw [initState_readByte hfits, if_pos (by omega), Nat.add_sub_cancel_left]

theorem initState_readByte_outside_rom {a : Nat} (ha : a < programStart ∨ programStart + rom.length ≤ a) :
    (initState rom s).readByte a = resetByte s.cfg a := by
  rw [initState_readByte hfits, if_neg (by omega)]

end

/-- Settles O55: the font ends below the ROM, so each of the two is read where it stands; the rest is what `init` writes. -/
theorem loadEstablishesTheResetState : Obligations.LoadEstablishesTheResetState := by
  intro rom s hfits hok
  obtain ⟨hfont, hbelow⟩ := font_of_cfgOk hok
  have hload : load rom s = (.success, initState rom s) := by rw [load_of_fits hfits, if_pos hok]
  refine ⟨initState rom s, hload, fun k => initState_readByte_rom hfits, fun k hk => ?font, fun a _ hnoFont hnoRom => ?zero,
    fun r => Vector.getElem_replicate r.isLt, rfl, rfl, rfl, rfl, rfl, pixelAt_allOff, rfl, rfl, rfl, rfl, rfl, rfl, rfl⟩
  case font => rw [initState_readByte_outside_rom hfits (by omega), resetByte_font]
  case zero => rw [initState_readByte_outside_rom hfits hnoRom, resetByte_outside_font (by omega)]

/-! ## Reset after a run (R355) -/

/-- The host will neither load nor reset. -/
def NoInitAhead (s : State) : Prop := ∀ a ∈ s.host.script, a ≠ .reset ∧ ∀ r, a ≠ .load r

theorem run_succ_eq_next {M : Host.Core} {k : Nat} {s t : M.State} :
    M.run (k + 1) s = .next t ↔ ∃ u, M.step s = .next u ∧ M.run k u = .next t := by
  rw [Host.Core.run]
  cases M.step s <;> simp

/-- A step keeps what `reset` starts from, and no load or reset comes onto the script. -/
theorem NoInitAhead.step_keeps {s t : State} (hs : NoInitAhead s) (h : step s = .next t) :
    t.rom = s.rom ∧ t.cfg = s.cfg ∧ NoInitAhead t := by
  have hreset : s.host.script.head? ≠ some .reset := fun e => (hs _ (List.mem_of_head? e)).1 rfl
  have hload : ∀ rom, s.host.script.head? ≠ some (.load rom) := fun rom e => (hs _ (List.mem_of_head? e)).2 rom rfl
  obtain ⟨hrom, hcfg, hscript⟩ := stepKeepsWhatResetStartsFrom s t h hreset hload
  exact ⟨hrom, hcfg, fun a ha => hs a (hscript.subset ha)⟩

theorem NoInitAhead.run_keeps {n : Nat} {s t : State} (hs : NoInitAhead s) (h : Host.Core.run core n s = .next t) :
    t.rom = s.rom ∧ t.cfg = s.cfg := by
  induction n generalizing s with
  | zero => cases h; exact ⟨rfl, rfl⟩
  | succ n ih =>
    obtain ⟨u, hstep, hrest⟩ := run_succ_eq_next.mp h
    obtain ⟨hrom, hcfg, hu⟩ := hs.step_keeps hstep
    obtain ⟨hrom', hcfg'⟩ := ih hu hrest
    exact ⟨hrom'.trans hrom, hcfg'.trans hcfg⟩

/-- Of the state before it, `init` reads the configuration alone (R353). -/
theorem initState_sameCore {s t : State} (rom : List Byte) (hcfg : t.cfg = s.cfg) :
    SameCore (initState rom s) (initState rom t) := by
  simp [SameCore, initState, hcfg]

/-- Settles O58: the run keeps the ROM that the load stored and the configuration, and the initialisation reads nothing else. -/
theorem resetRestoresTheLoadedState : Obligations.ResetRestoresTheLoadedState := by
  intro rom s loaded hload n t hrun hscript
  obtain ⟨r, hrefused⟩ | ⟨-, hok, hsuccess⟩ := load_cases rom s
  · cases hrefused.symm.trans hload
  · cases hsuccess.symm.trans hload
    obtain ⟨hrom, hcfg⟩ := NoInitAhead.run_keeps hscript hrun
    have hreset : resetCore t = (.success, initState rom t) := by rw [resetCore_of_stored hrom, hcfg, initState_cfg, if_pos hok]
    exact ⟨initState rom t, hreset, initState_sameCore rom hcfg, rfl⟩

/-! ## The decoder vectors (X1 to X12) -/

/-- Settles O4: the decoder, run on each of the twelve fixed words. -/
theorem specDecoderVectors : Obligations.SpecDecoderVectors := ⟨rfl, rfl, rfl, rfl, rfl, rfl, rfl, rfl, rfl, rfl, rfl, rfl⟩

end Sys2Proof.Machine
end
